-- ==== Sys2Proof/Word.lean ====
section
/-! DEFINITION. The word types of the engine and lists filled by an index function. -/

namespace Sys2Proof

/-- An `int8` element: activation, weight, output (`30_encoding.md` R90). -/
abbrev I8 := BitVec 8

/-- An `int32` element: bias, accumulator (`30_encoding.md` R90). -/
abbrev I32 := BitVec 32

/-- An operation word (`30_encoding.md` R93). -/
abbrev OpWord := BitVec 32

/-- The list of `f 0, …, f (n-1)`: how an operation fills one dimension of an on-chip buffer. -/
def tab {α : Type} (n : Nat) (f : Nat → α) : List α := (List.range n).map f

/-- Row `i` of a table of rows; a row that nothing has written is empty. -/
def row {α : Type} (rows : List (List α)) (i : Nat) : List α := rows[i]?.getD []

/-- `f 0 + … + f (n-1)`, a mathematical integer (`00_scope.md` R10). -/
def sumTo : Nat → (Nat → Int) → Int
  | 0, _ => 0
  | n + 1, f => sumTo n f + f n

/-- `body 0`, then `body 1`, …, then `body (n-1)`: a loop in increasing order. -/
def loopTo {α : Type} : Nat → (Nat → α → α) → α → α
  | 0, _, a => a
  | n + 1, body, a => body n (loopTo n body a)

end Sys2Proof
end

