-- ==== Sys2Proof/Machine/Arith.lean ====
section
/-! DEFINITION. The integer laws of the engine (`44_mac_accumulate_unit.md` R181, R182, R185; `45_output_requantizer.md` R200). -/

namespace Sys2Proof.Machine

/-- `wrap_32(z)` (`00_scope.md` R10, `44_mac_accumulate_unit.md` R182, D5; log 14). -/
def wrap32 (z : Int) : I32 := BitVec.ofInt 32 z

/-- The exact product of two signed `i8` (`44_mac_accumulate_unit.md` R181). -/
def product (a b : I8) : Int := a.toInt * b.toInt

/-- `clamp(z, lo, hi)` (`00_scope.md` R10). -/
def clamp (z lo hi : Int) : Int := if z < lo then lo else if hi < z then hi else z

/-- `a >>a 8`, the floor of `a / 256` (`45_output_requantizer.md` R200, R204): for a positive divisor Lean's `/` is the
floor. -/
def sar8 (a : I32) : Int := a.toInt / 256

/-- `requant(a) = clamp(a >>a 8, -128, 127)` as an `i8` (`45_output_requantizer.md` R200). -/
def requant (a : I32) : I8 := BitVec.ofInt 8 (clamp (sar8 a) (-128) 127)

end Sys2Proof.Machine
end

