-- ==== Sys2Proof/Config.lean ====
section
/-! DEFINITION. The configuration of one engine instance (`00_scope.md` R6 to R9): a parameter of every rule. -/

namespace Sys2Proof

/-- The seven configuration constants (`00_scope.md` R6), not yet checked. -/
structure Dims where
  h : Nat
  w : Nat
  cin : Nat
  cout : Nat
  k : Nat
  ciTile : Nat
  coTile : Nat
deriving DecidableEq, Repr

/-- The validity conditions of `00_scope.md` R6. -/
abbrev Dims.Valid (d : Dims) : Prop :=
  1 ≤ d.k ∧ d.k ≤ d.h ∧ d.k ≤ d.w ∧ 1 ≤ d.ciTile ∧ 1 ≤ d.coTile ∧ 1 ≤ d.cin ∧ 1 ≤ d.cout ∧
    d.cin % d.ciTile = 0 ∧ d.cout % d.coTile = 0

/-- A valid engine instance: an invalid one cannot be built (`93_implementation_defined.md` U6, breach B6; log 31). -/
structure Config extends Dims where
  valid : toDims.Valid
deriving DecidableEq, Repr

namespace Config

/-- `OH = H-K+1` (R6). -/
def oh (c : Config) : Nat := c.h - c.k + 1

/-- `OW = W-K+1` (R6). -/
def ow (c : Config) : Nat := c.w - c.k + 1

/-- Bytes of the input tensor (`20_memory.md` R60). -/
def inBytes (c : Config) : Nat := c.h * c.w * c.cin

/-- Bytes of the weight tensor (`20_memory.md` R60). -/
def wgtBytes (c : Config) : Nat := c.cout * c.cin * c.k * c.k

/-- Bytes of the bias vector (`20_memory.md` R60). -/
def biasBytes (c : Config) : Nat := 4 * c.cout

/-- Bytes of the output tensor (`20_memory.md` R60). -/
def outBytes (c : Config) : Nat := c.oh * c.ow * c.cout

/-- OPEN (`00_scope.md` R7, D1, N6): the shipped `CI_TILE` is `2 ^ ciTileLog2`; the divisors of `CIN = 128` are
exactly these eight powers of two. No body, so no proof can see the value (log 2). -/
opaque ciTileLog2 : Fin 8

/-- OPEN (`00_scope.md` R7, D1, N6): the shipped `CO_TILE` is `2 ^ coTileLog2` (log 2). -/
opaque coTileLog2 : Fin 8

theorem two_pow_divides_128 : ∀ e : Fin 8, 1 ≤ 2 ^ e.val ∧ 128 % 2 ^ e.val = 0 := by decide

/-- The shipped instance (`00_scope.md` R7), its two tile sizes left open. -/
def shipped : Config where
  h := 26
  w := 26
  cin := 128
  cout := 128
  k := 3
  ciTile := 2 ^ ciTileLog2.val
  coTile := 2 ^ coTileLog2.val
  valid := ⟨by decide, by decide, by decide, (two_pow_divides_128 _).1, (two_pow_divides_128 _).1, by decide,
    by decide, (two_pow_divides_128 _).2, (two_pow_divides_128 _).2⟩

end Config

end Sys2Proof
end

