-- ==== Sys2Proof/Syntax.lean ====
section
/-! DEFINITION. The operations of the engine: every row of spec/opcode_table.json (`30_encoding.md` R97). -/

namespace Sys2Proof

/-- The complete set of operations (`30_encoding.md` R97): two host operations and seven micro-operations. Operands are
the unsigned fields `a` and `b` of the word, in this order (R94). -/
inductive Instr where
  /-- `START` (host, R120). -/
  | start
  /-- `WAIT_DONE` (host, R126). -/
  | waitDone
  /-- `LOAD_BIAS` (R121). -/
  | loadBias
  /-- `LOAD_WEIGHTS co0, ci0` (R150). -/
  | loadWeights (co0 ci0 : Nat)
  /-- `PUSH_ROW y, ci0` (R160). -/
  | pushRow (y ci0 : Nat)
  /-- `BUILD_WINDOW y, x` (R170). -/
  | buildWindow (y x : Nat)
  /-- `ACCUMULATE y, x` (R180). -/
  | accumulate (y x : Nat)
  /-- `REQUANTIZE_WRITE y, x` (R201). -/
  | requantizeWrite (y x : Nat)
  /-- `FINISH` (R122). -/
  | finish
deriving DecidableEq, Repr

/-- The mnemonic as spec/opcode_table.json has it. -/
def Instr.mnemonic : Instr → String
  | .start => "START"
  | .waitDone => "WAIT_DONE"
  | .loadBias => "LOAD_BIAS"
  | .loadWeights _ _ => "LOAD_WEIGHTS"
  | .pushRow _ _ => "PUSH_ROW"
  | .buildWindow _ _ => "BUILD_WINDOW"
  | .accumulate _ _ => "ACCUMULATE"
  | .requantizeWrite _ _ => "REQUANTIZE_WRITE"
  | .finish => "FINISH"

end Sys2Proof
end

