-- ==== Sys2Proof/WellFormed.lean ====
section
/-! DEFINITION. Which operations have a word (`30_encoding.md` R94), and which name an operation of an instance (R98). -/

namespace Sys2Proof

/-- An operand fits its 14-bit field (`30_encoding.md` R94). -/
def fitsField (n : Nat) : Bool := decide (n < 2 ^ 14)

/-- Every explicit operand fits its field (`30_encoding.md` R94). -/
def Instr.wf : Instr → Bool
  | .start => true
  | .waitDone => true
  | .loadBias => true
  | .loadWeights co0 ci0 => fitsField co0 && fitsField ci0
  | .pushRow y ci0 => fitsField y && fitsField ci0
  | .buildWindow y x => fitsField y && fitsField x
  | .accumulate y x => fitsField y && fitsField x
  | .requantizeWrite y x => fitsField y && fitsField x
  | .finish => true

/-- The operation is one of the engine's, so that it has an operation word (`30_encoding.md` R96, R97). -/
def Instr.hasWord : Instr → Bool
  | .start => false
  | .waitDone => false
  | .loadBias => true
  | .loadWeights _ _ => true
  | .pushRow _ _ => true
  | .buildWindow _ _ => true
  | .accumulate _ _ => true
  | .requantizeWrite _ _ => true
  | .finish => true

/-- `co0` is the origin of an output-channel tile (`10_state.md` R23). -/
abbrev Config.CoOrigin (c : Config) (co0 : Nat) : Prop := co0 % c.coTile = 0 ∧ co0 ≤ c.cout - c.coTile

/-- `ci0` is the origin of an input-channel tile (`10_state.md` R24). -/
abbrev Config.CiOrigin (c : Config) (ci0 : Nat) : Prop := ci0 % c.ciTile = 0 ∧ ci0 ≤ c.cin - c.ciTile

/-- `x` is a column the sequencer visits (`10_state.md` R26). -/
abbrev Config.ScanColumn (c : Config) (x : Nat) : Prop := c.k - 1 ≤ x ∧ x < c.w

/-- The operands lie in the ranges of `10_state.md` R23 to R26, so that the word names an operation of this instance
(`30_encoding.md` R98). -/
def Instr.inRange (c : Config) : Instr → Bool
  | .start => true
  | .waitDone => true
  | .loadBias => true
  | .loadWeights co0 ci0 => decide (c.CoOrigin co0 ∧ c.CiOrigin ci0)
  | .pushRow y ci0 => decide (y < c.h ∧ c.CiOrigin ci0)
  | .buildWindow y x => decide (y < c.h ∧ c.ScanColumn x)
  | .accumulate y x => decide (y < c.h ∧ c.ScanColumn x)
  | .requantizeWrite y x => decide (y < c.h ∧ c.ScanColumn x)
  | .finish => true

end Sys2Proof
end

