-- ==== Sys2Proof/Decode.lean ====
section
/-! DEFINITION. The decoder and the encoder of operation words (`30_encoding.md` R93 to R98). -/

namespace Sys2Proof

/-- Why a word names no operation (`30_encoding.md` R98). -/
inductive DecodeError where
  /-- `op` is `0x0` or `0x8` to `0xF`. -/
  | reservedOpcode (op : Nat)
  /-- `LOAD_BIAS` or `FINISH` with a non-zero operand field. -/
  | nonzeroOperand (op : Nat)
deriving DecidableEq, Repr

/-- `op = word[31:28]` (R93). -/
def wordOp (w : OpWord) : Nat := w.toNat / 2 ^ 28

/-- `a = word[27:14]` (R93). -/
def wordA (w : OpWord) : Nat := w.toNat / 2 ^ 14 % 2 ^ 14

/-- `b = word[13:0]` (R93). -/
def wordB (w : OpWord) : Nat := w.toNat % 2 ^ 14

/-- The operation of an opcode and two operand fields (`30_encoding.md` R97, R98). -/
def decodeFields (op a b : Nat) : Except DecodeError Instr :=
  match op with
  | 1 => if a = 0 ∧ b = 0 then .ok .loadBias else .error (.nonzeroOperand 1)
  | 2 => .ok (.loadWeights a b)
  | 3 => .ok (.pushRow a b)
  | 4 => .ok (.buildWindow a b)
  | 5 => .ok (.accumulate a b)
  | 6 => .ok (.requantizeWrite a b)
  | 7 => if a = 0 ∧ b = 0 then .ok .finish else .error (.nonzeroOperand 7)
  | n => .error (.reservedOpcode n)

/-- The operation a word names; total, reserved words rejected by name (`30_encoding.md` R97, R98; log 19). -/
def decode (w : OpWord) : Except DecodeError Instr := decodeFields (wordOp w) (wordA w) (wordB w)

/-- The word with fields `op`, `a`, `b`: `(op << 28) | (a << 14) | b` (`30_encoding.md` R101). -/
def packWord (op a b : Nat) : OpWord := BitVec.ofNat 32 (op * 2 ^ 28 + a * 2 ^ 14 + b)

/-- The opcode and operand fields of an engine operation, packed; host operations have none (`30_encoding.md` R96, R97). -/
def fieldWord : Instr → Option OpWord
  | .start => none
  | .waitDone => none
  | .loadBias => some (packWord 1 0 0)
  | .loadWeights co0 ci0 => some (packWord 2 co0 ci0)
  | .pushRow y ci0 => some (packWord 3 y ci0)
  | .buildWindow y x => some (packWord 4 y x)
  | .accumulate y x => some (packWord 5 y x)
  | .requantizeWrite y x => some (packWord 6 y x)
  | .finish => some (packWord 7 0 0)

/-- The word of an operation: an engine operation whose operands fit their 14-bit fields has one, no other
(`30_encoding.md` R94, R96, R97). -/
def encode (i : Instr) : Option OpWord := if i.wf then fieldWord i else none

/-- An operation word as the table numbers its bits: one 32-bit word, bits above `nbits` zero (`30_encoding.md` R93, R100). -/
def tableWord (nbits w : Nat) : OpWord := BitVec.ofNat 32 (w % 2 ^ nbits)

/-- What the decoder reads from a table word; there is one length only (`30_encoding.md` R100). -/
def decodeTableWord (nbits w : Nat) : Option Instr :=
  if nbits ≤ 32 then
    match decode (tableWord nbits w) with
    | .ok i => some i
    | .error _ => none
  else none

end Sys2Proof
end

