-- ==== Sys2Proof/Machine/State.lean ====
section
/-! DEFINITION. The state of the engine, the host's view of it, and the state after reset (`10_state.md`). -/

namespace Sys2Proof.Machine

/-- `PHASE`: the stage whose micro-operation the engine executes next (`10_state.md` R22). -/
inductive Phase where
  | idle
  | loadBias
  | loadWeights
  | pushRow
  | buildWindow
  | accumulate
  | requantizeWrite
  | finish
deriving DecidableEq, Repr

/-- The sequencer position `pc = (PHASE, CO0, CI0, Y, X)` (`00_scope.md` R13, `10_state.md` R22 to R26). -/
structure Pos where
  phase : Phase
  co0 : Nat
  ci0 : Nat
  y : Nat
  x : Nat
deriving DecidableEq, Repr

/-- A buffer reference (`10_state.md` R34): an opaque handle, and whether the host has written it since reset (log 11). -/
structure Ref where
  handle : Nat
  written : Bool
deriving DecidableEq, Repr

/-- `WBUF_TAG`: the tile pair the content of `WBUF` was loaded for (`10_state.md` R46). -/
structure TileTag where
  co0 : Nat
  ci0 : Nat
deriving DecidableEq, Repr

/-- `ROWS_PUSHED`: rows `0 .. n-1` of channel tile `ci0` have been pushed in this scan (`10_state.md` R46). -/
structure RowTag where
  ci0 : Nat
  n : Nat
deriving DecidableEq, Repr

/-- `WINDOW_TAG`: what the window was built for (`10_state.md` R46). -/
structure WindowTag where
  ci0 : Nat
  y : Nat
  x : Nat
deriving DecidableEq, Repr

/-- `ACC_TAG[oy][ox]`: the bank holds the bias plus the input channels below `ciNext`, for output tile `co0` (R46). -/
structure AccTag where
  co0 : Nat
  ciNext : Nat
deriving DecidableEq, Repr

/-- One address space (`20_memory.md` R60): its size in bytes and the bytes that differ from what an unlisted byte reads
as (`Memory.unlisted`), by rising offset. -/
structure Memory where
  size : Nat
  cells : List Host.Cell
deriving DecidableEq, Repr

/-- The four address spaces (`20_memory.md` R60). -/
inductive Space where
  | input
  | weights
  | biases
  | output
deriving DecidableEq, Repr

/-- What the host may touch (the model's own ghost, from `20_memory.md` R75, R80 and `70_reset_and_hazards.md` R271, R280;
logs 7 and 8). -/
inductive Duty where
  /-- No run is outstanding: the host owns the four buffers and the references. -/
  | free
  /-- `START` was given and `DONE` not yet observed: the host touches nothing. -/
  | awaiting
  /-- A reset ended the run: `OUT` may be partly written and is not to be read before a later `DONE`. -/
  | cutShort
deriving DecidableEq, Repr

/-- What a read of the host gave it (`20_memory.md` R75; log 35). -/
inductive HostValue where
  /-- A byte of a buffer. -/
  | byte (v : I8)
  /-- The handle of a reference. -/
  | handle (n : Nat)
deriving DecidableEq, Repr

/-- A move of the host (`00_scope.md` R18, `20_memory.md` R75, `70_reset_and_hazards.md` R272). None of them stops, pauses or
aborts a run (`40_control_sequencer.md` R127). -/
inductive HostMove where
  /-- `START` (R120). -/
  | start
  /-- `WAIT_DONE` (R126). -/
  | waitDone
  /-- Write a buffer reference (R34, R272 step 4). -/
  | setRef (space : Space) (handle : Nat)
  /-- Provide a buffer of these bytes (R272 steps 2 and 3). -/
  | provide (space : Space) (bytes : List I8)
  /-- Write one byte of a buffer (R75). -/
  | write (space : Space) (offset : Nat) (byte : I8)
  /-- Read one byte of a buffer (R75, R80; log 35). -/
  | read (space : Space) (offset : Nat)
  /-- Read a buffer reference (R75; log 35). -/
  | readRef (space : Space)
deriving DecidableEq, Repr

/-- What happens next (`00_scope.md` R18; log 4). -/
inductive Turn where
  /-- One step of the engine (`40_control_sequencer.md` R129). -/
  | engine
  /-- One move of the host. -/
  | host (m : HostMove)
  /-- The out-of-schedule driver issues an operation word (`60_exceptions.md` R243; log 18). -/
  | driver (w : OpWord)
  /-- The reset event (`70_reset_and_hazards.md` R270, R271). The spec names no agent that raises it, and R127 gives the host
  no step that ends a run: that it is a turn of its own, of neither agent, at any time, is the model's choice (DESIGN CHOICE,
  log 34). -/
  | reset
deriving DecidableEq, Repr

/-- The only fault of the model: no engine operation raises one (`60_exceptions.md` R240). -/
inductive Fault where
  /-- Raised by the host moves `write` and `read` at an offset past the end of the buffer, an address that does not
  exist. Safe: the host's program stops, no value is invented (log 30). -/
  | noSuchByte (space : Space) (offset : Nat)
deriving DecidableEq, Repr

/-- Contract breaches and rejections: no next state (`60_exceptions.md` R243, D14). Each is safe: the model stops where the
spec gives the hardware no meaning. Breach B7 cannot be expressed (log 16). -/
inductive Refusal where
  /-- Raised by an arm of `exec` whose instruction has no meaning yet; no arm is left. Safe. -/
  | notModelled (mnemonic : String)
  /-- B1, raised by `LOAD_WEIGHTS`: tile origin out of range, not a multiple, or not the sequencer's. Safe. -/
  | b1TileOrigin
  /-- B2, raised by `PUSH_ROW`: not exactly once per row in increasing order. Safe. -/
  | b2RowOrder
  /-- B3, raised by `BUILD_WINDOW`: no window there, or a row not pushed in this scan. Safe. -/
  | b3NoWindow
  /-- B4, raised by `ACCUMULATE`: weights, window, bias or bank not the current ones. Safe. -/
  | b4StaleOperand
  /-- B5, raised by `REQUANTIZE_WRITE`: not the last input-channel tile, or channels missing. Safe. -/
  | b5NotFinal
  /-- B6, raised by `START` and by the operations that touch memory: a reference not written or a buffer smaller than its
  tensor. Safe. -/
  | b6Buffer
  /-- B8, raised by the host's buffer and reference moves while a run is outstanding. Safe. -/
  | b8HostAccess
  /-- B9, raised by `START` while busy. Safe. -/
  | b9StartBusy
  /-- B10, raised by `BUILD_WINDOW`, `ACCUMULATE` and `REQUANTIZE_WRITE`: an on-chip element that holds no value. Safe. -/
  | b10NoValue
  /-- Raised by `LOAD_BIAS` and `FINISH` when `PHASE` names another operation; R243 numbers no breach for it. Safe (log 17). -/
  | outOfSchedule (mnemonic : String)
  /-- Raised by the driver's turn for a word that names no operation (`30_encoding.md` R98). Safe (log 19). -/
  | reservedWord (e : DecodeError)
deriving DecidableEq, Repr

/-- Everything the spec gives the machine (`10_state.md` R20, R46; `20_memory.md` R60), its parameter `cfg`, and the
model's own fields `duty`, `hostSaw` and `agenda`. An element of an on-chip buffer that nothing has written is absent from its list:
it holds no value (R46; log 12). -/
structure State where
  /-- The instance's configuration, a parameter that no step writes (`00_scope.md` R8, `10_state.md` R38; log 1). -/
  cfg : Config
  /-- `START` (R21). -/
  start : Bool
  /-- `DONE` (R33). -/
  done : Bool
  /-- `PHASE`, `CO0`, `CI0`, `Y`, `X` (R22 to R26, R37). -/
  pc : Pos
  /-- `ROW_PTR` (R27). -/
  rowPtr : Nat
  /-- `LINEBUF[r][x][ci]` (R28). -/
  lineBuf : List (List (List I8))
  /-- `WBUF[co][ci][ky][kx]` (R29). -/
  wbuf : List (List (List (List I8)))
  /-- `BIAS[i]` (R30). -/
  bias : List I32
  /-- `WINDOW[ky][kx][ci]` (R31). -/
  window : List (List (List I8))
  /-- `ACC[oy][ox][co]` (R32). -/
  acc : List (List (List I32))
  /-- `IN_REF` (R34). -/
  inRef : Ref
  /-- `OUT_REF` (R34). -/
  outRef : Ref
  /-- `WGT_REF` (R34). -/
  wgtRef : Ref
  /-- `BIAS_REF` (R34). -/
  biasRef : Ref
  /-- `BIAS_VALID`, ghost (R46). -/
  biasValid : Bool
  /-- `WBUF_TAG`, ghost (R46). -/
  wbufTag : Option TileTag
  /-- `ROWS_PUSHED`, ghost (R46). -/
  rowsPushed : Option RowTag
  /-- `WINDOW_TAG`, ghost (R46). -/
  windowTag : Option WindowTag
  /-- `ACC_TAG[oy][ox]`, ghost (R46). -/
  accTag : List (List (Option AccTag))
  /-- The space `IN` (`20_memory.md` R60, R61). -/
  inMem : Memory
  /-- The space `WGT` (`20_memory.md` R60, R62). -/
  wgtMem : Memory
  /-- The space `BIASMEM` (`20_memory.md` R60, R63). -/
  biasMem : Memory
  /-- The space `OUT` (`20_memory.md` R60, R64). -/
  outMem : Memory
  /-- The model's own: what the host may touch. -/
  duty : Duty
  /-- The model's own: what the host's last read gave it, if any (log 35). -/
  hostSaw : Option HostValue
  /-- The model's own: the turns still to come. -/
  agenda : List Turn
deriving DecidableEq, Repr

/-- A reference the host has not written since reset (`10_state.md` R47 "unspecified"; the handle is log 11's choice). -/
def Ref.unwritten : Ref := ⟨0, false⟩

/-- An instance right after reset (`10_state.md` R47): control idle and zero, on-chip elements without a value, ghost tags
invalid; buffers exactly as large as their tensors with nothing listed (logs 9 and 10). -/
def State.resetOf (c : Config) : State where
  cfg := c
  start := false
  done := false
  pc := ⟨.idle, 0, 0, 0, 0⟩
  rowPtr := 0
  lineBuf := []
  wbuf := []
  bias := []
  window := []
  acc := []
  inRef := .unwritten
  outRef := .unwritten
  wgtRef := .unwritten
  biasRef := .unwritten
  biasValid := false
  wbufTag := none
  rowsPushed := none
  windowTag := none
  accTag := []
  inMem := ⟨c.inBytes, []⟩
  wgtMem := ⟨c.wgtBytes, []⟩
  biasMem := ⟨c.biasBytes, []⟩
  outMem := ⟨c.outBytes, []⟩
  duty := .free
  hostSaw := none
  agenda := []

/-- The shipped instance right after reset (`10_state.md` R47, `00_scope.md` R7). -/
def State.reset : State := State.resetOf Config.shipped

end Sys2Proof.Machine
end

