-- ==== Sys2Proof/Machine/Ops.lean ====
section
/-! DEFINITION. The named operations over memory, on-chip buffers and the sequencer. There is no operation that takes an
exception and none that returns from one: the spec has neither (`60_exceptions.md` R240, R241). -/

namespace Sys2Proof.Machine

/-- What every meaning answers. -/
abbrev Result := Host.Outcome State Fault Refusal

/-- A contract: `answer` if every condition holds, else the refusal of the first that fails; listed with the lowest-numbered
breach first (`60_exceptions.md` R243, R244). -/
def checked : List (Bool × Refusal) → Result → Result
  | [], answer => answer
  | (holds, breach) :: rest, answer => if holds then checked rest answer else .refused breach

/-! ### Memory (`20_memory.md`) -/

/-- What an unlisted byte reads as: the spec gives no contents before the host fills a buffer (DESIGN CHOICE, log 9). -/
def Memory.unlisted : I8 := 0

/-- The listed byte at an offset, or what an unlisted one reads as. -/
def cellsRead : List Host.Cell → Nat → I8
  | [], _ => Memory.unlisted
  | (b, v) :: rest, a => if b = a then v else cellsRead rest a

/-- Put a byte into the canonical list: offsets stay rising, and the unlisted value is not listed. -/
def cellsWrite : List Host.Cell → Nat → I8 → List Host.Cell
  | [], a, v => if v = Memory.unlisted then [] else [(a, v)]
  | (b, u) :: rest, a, v =>
    if a < b then (if v = Memory.unlisted then (b, u) :: rest else (a, v) :: (b, u) :: rest)
    else if a = b then (if v = Memory.unlisted then rest else (a, v) :: rest)
    else (b, u) :: cellsWrite rest a v

/-- `MemRead(SPACE + a, 1)` (`00_scope.md` R12). -/
def Memory.read (m : Memory) (a : Nat) : I8 := cellsRead m.cells a

/-- `MemRead(SPACE + a, 4)`, little-endian (`20_memory.md` R66, D2; log 13). -/
def Memory.read32 (m : Memory) (a : Nat) : I32 :=
  m.read (a + 3) ++ m.read (a + 2) ++ m.read (a + 1) ++ m.read a

/-- `MemWrite(SPACE + a, 1, v)` (`00_scope.md` R12). -/
def Memory.write (m : Memory) (a : Nat) (v : I8) : Memory := { m with cells := cellsWrite m.cells a v }

/-- Several one-byte writes, in the order listed. -/
def Memory.writeAll : Memory → List (Nat × I8) → Memory
  | m, [] => m
  | m, (a, v) :: rest => (m.write a v).writeAll rest

/-- A new buffer of exactly these bytes. -/
def Memory.ofBytes (bytes : List I8) : Memory :=
  (Memory.mk bytes.length []).writeAll (bytes.zipIdx.map fun p => (p.2, p.1))

/-- The canonical form: offsets strictly rising and inside the buffer, no unlisted value listed. -/
abbrev Memory.wf (m : Memory) : Prop :=
  (m.cells.map Prod.fst).Pairwise (· < ·) ∧ (∀ cell ∈ m.cells, cell.2 ≠ Memory.unlisted) ∧
    ∀ cell ∈ m.cells, cell.1 < m.size

/-- One of the four spaces (`20_memory.md` R60). -/
def State.space (s : State) : Space → Memory
  | .input => s.inMem
  | .weights => s.wgtMem
  | .biases => s.biasMem
  | .output => s.outMem

/-- Replace one of the four spaces. -/
def State.withSpace (s : State) (sp : Space) (m : Memory) : State :=
  match sp with
  | .input => { s with inMem := m }
  | .weights => { s with wgtMem := m }
  | .biases => { s with biasMem := m }
  | .output => { s with outMem := m }

/-- The reference to one of the four buffers (`10_state.md` R34). -/
def State.ref (s : State) : Space → Ref
  | .input => s.inRef
  | .weights => s.wgtRef
  | .biases => s.biasRef
  | .output => s.outRef

/-- Write the reference to one of the four buffers (`10_state.md` R34). -/
def State.withRef (s : State) (sp : Space) (r : Ref) : State :=
  match sp with
  | .input => { s with inRef := r }
  | .weights => { s with wgtRef := r }
  | .biases => { s with biasRef := r }
  | .output => { s with outRef := r }

/-! ### Elements of the on-chip buffers (`00_scope.md` R11); `none` is "holds no value" (`10_state.md` R46) -/

/-- `BIAS[i]` (`10_state.md` R30). -/
def State.biasAt (s : State) (i : Nat) : Option I32 := s.bias[i]?

/-- `LINEBUF[r][x][ci]` (`10_state.md` R28). -/
def State.lineAt (s : State) (r x ci : Nat) : Option I8 := (row (row s.lineBuf r) x)[ci]?

/-- `WBUF[co][ci][ky][kx]` (`10_state.md` R29). -/
def State.wbufAt (s : State) (co ci ky kx : Nat) : Option I8 := (row (row (row s.wbuf co) ci) ky)[kx]?

/-- `WINDOW[ky][kx][ci]` (`10_state.md` R31). -/
def State.windowAt (s : State) (ky kx ci : Nat) : Option I8 := (row (row s.window ky) kx)[ci]?

/-- `ACC[oy][ox][co]` (`10_state.md` R32). -/
def State.accAt (s : State) (oy ox co : Nat) : Option I32 := (row (row s.acc oy) ox)[co]?

/-- `ACC_TAG[oy][ox]` (`10_state.md` R46). -/
def State.accTagAt (s : State) (oy ox : Nat) : Option AccTag := ((row s.accTag oy)[ox]?).getD none

/-! ### The sequencer (`40_control_sequencer.md`) -/

/-- `advance()` (`40_control_sequencer.md` R123). -/
def Pos.advance (c : Config) (p : Pos) : Pos :=
  if p.x < c.w - 1 then { p with phase := .buildWindow, x := p.x + 1 }
  else if p.y < c.h - 1 then { p with phase := .pushRow, y := p.y + 1, x := c.k - 1 }
  else if p.ci0 < c.cin - c.ciTile then
    { p with phase := .loadWeights, ci0 := p.ci0 + c.ciTile, y := 0, x := c.k - 1 }
  else if p.co0 < c.cout - c.coTile then
    { p with phase := .loadWeights, co0 := p.co0 + c.coTile, ci0 := 0, y := 0, x := c.k - 1 }
  else { p with phase := .finish }

/-- The next-state function of the schedule (`40_control_sequencer.md` R123); `IDLE` has no micro-operation. -/
def Pos.next (c : Config) (p : Pos) : Pos :=
  match p.phase with
  | .idle => p
  | .loadBias => ⟨.loadWeights, 0, 0, 0, c.k - 1⟩
  | .loadWeights => { p with phase := .pushRow, y := 0, x := c.k - 1 }
  | .pushRow =>
    if c.k - 1 ≤ p.y then { p with phase := .buildWindow, x := c.k - 1 }
    else { p with phase := .pushRow, y := p.y + 1, x := c.k - 1 }
  | .buildWindow => { p with phase := .accumulate }
  | .accumulate => if p.ci0 = c.cin - c.ciTile then { p with phase := .requantizeWrite } else p.advance c
  | .requantizeWrite => p.advance c
  | .finish => { p with phase := .idle }

/-- The engine's acceptance of `START` (`40_control_sequencer.md` R120, engine part). -/
def State.accepted (s : State) : State :=
  { s with
    start := false
    done := false
    biasValid := false
    wbufTag := none
    rowsPushed := none
    windowTag := none
    accTag := []
    pc := ⟨.loadBias, 0, 0, 0, s.cfg.k - 1⟩ }

/-- The reset event (`70_reset_and_hazards.md` R270, R271): the engine's state as `10_state.md` R47 gives it, memory and
the parameter untouched, the host's own `hostSaw` and `agenda` too; a run that was outstanding is cut short (log 8). -/
def State.resetEvent (s : State) : State :=
  { State.resetOf s.cfg with
    inMem := s.inMem
    wgtMem := s.wgtMem
    biasMem := s.biasMem
    outMem := s.outMem
    duty := if s.duty = .awaiting then .cutShort else s.duty
    hostSaw := s.hostSaw
    agenda := s.agenda }

end Sys2Proof.Machine
end

