-- ==== Sys2Proof/Machine/Flags.lean ====
section
/-! DEFINITION. The engine has no flags (`10_state.md` R35): this file holds the four predicates of the sequencer registers
that stand in their place, and the preconditions that several operations share. -/

namespace Sys2Proof

/-- `K-1 ≤ y ≤ H-1` and `K-1 ≤ x ≤ W-1`: the scan positions that have an output pixel (`43_window_assembler.md` R171). -/
def Config.isPixel (c : Config) (y x : Nat) : Bool := decide (c.k - 1 ≤ y ∧ y < c.h ∧ c.k - 1 ≤ x ∧ x < c.w)

end Sys2Proof

namespace Sys2Proof.Machine

/-- `first_tile` (`10_state.md` R35). -/
def State.firstTile (s : State) : Bool := decide (s.pc.ci0 = 0)

/-- `last_tile` (`10_state.md` R35). -/
def State.lastTile (s : State) : Bool := decide (s.pc.ci0 = s.cfg.cin - s.cfg.ciTile)

/-- `window_valid` (`10_state.md` R35). -/
def State.windowValid (s : State) : Bool := decide (s.cfg.k - 1 ≤ s.pc.x ∧ s.cfg.k - 1 ≤ s.pc.y)

/-- `busy` (`10_state.md` R35). -/
def State.busy (s : State) : Bool := decide (s.pc.phase ≠ .idle)

/-- Each buffer is at least as large as its tensor (`20_memory.md` R60, R65). -/
def State.buffersFit (s : State) : Bool :=
  decide (s.cfg.inBytes ≤ s.inMem.size ∧ s.cfg.wgtBytes ≤ s.wgtMem.size ∧ s.cfg.biasBytes ≤ s.biasMem.size ∧
    s.cfg.outBytes ≤ s.outMem.size)

/-- The host has written the four references (`10_state.md` R34, R47). -/
def State.refsWritten (s : State) : Bool :=
  s.inRef.written && s.outRef.written && s.wgtRef.written && s.biasRef.written

/-- The host may write buffers and references, and read references and the three input buffers: no run is outstanding
(`20_memory.md` R75, R80; log 7). -/
def State.hostMayTouch (s : State) : Bool := !s.busy && decide (s.duty ≠ .awaiting)

/-- The host may read `OUT` (`20_memory.md` R75, R80, `70_reset_and_hazards.md` R271; logs 7 and 8). -/
def State.hostMayReadOut (s : State) : Bool := !s.busy && decide (s.duty = .free)

/-- The host may read this buffer (`20_memory.md` R75, R80; logs 7 and 8). -/
def State.hostMayRead (s : State) : Space → Bool
  | .input => s.hostMayTouch
  | .weights => s.hostMayTouch
  | .biases => s.hostMayTouch
  | .output => s.hostMayReadOut

/-- `WAIT_DONE` is enabled: `DONE` is 1, and no `START` waits to be accepted (`40_control_sequencer.md` R126, R120; log 5). -/
def State.waitEnabled (s : State) : Bool := s.done && !s.start

end Sys2Proof.Machine
end

