-- ==== Sys2Proof/Machine/Operands.lean ====
section
/-! DEFINITION. Index formulas and operand assembly (`30_encoding.md` R91, R103; `00_scope.md` R12), and the operands an
operation takes from the sequencer registers (R94). -/

namespace Sys2Proof

/-- Offset of input element `(y, x, ch)` (`20_memory.md` R61). -/
def Config.inIdx (c : Config) (y x ch : Nat) : Nat := (y * c.w + x) * c.cin + ch

/-- Offset of weight element `(co, ci, ky, kx)` (`20_memory.md` R62). -/
def Config.wgtIdx (c : Config) (co ci ky kx : Nat) : Nat := ((co * c.cin + ci) * c.k + ky) * c.k + kx

/-- Offset of output element `(oy, ox, co)` (`20_memory.md` R64). -/
def Config.outIdx (c : Config) (oy ox co : Nat) : Nat := (oy * c.ow + ox) * c.cout + co

/-- `oy = y-(K-1)` or `ox = x-(K-1)` (`30_encoding.md` R103). -/
def Config.outCoord (c : Config) (n : Nat) : Nat := n - (c.k - 1)

/-- The input column of window column `kx`: `x-(K-1)+kx` (`43_window_assembler.md` R170, D8; log 15). -/
def Config.windowColumn (c : Config) (x kx : Nat) : Nat := x - (c.k - 1) + kx

end Sys2Proof

namespace Sys2Proof.Machine

/-- Offset of bias element `i` (`20_memory.md` R63). -/
def biasIdx (i : Nat) : Nat := 4 * i

/-- `in(y, x, c)` (`00_scope.md` R12). -/
def State.inputAt (s : State) (y x ch : Nat) : I8 := s.inMem.read (s.cfg.inIdx y x ch)

/-- `wgt(co, ci, ky, kx)` (`00_scope.md` R12). -/
def State.weightAt (s : State) (co ci ky kx : Nat) : I8 := s.wgtMem.read (s.cfg.wgtIdx co ci ky kx)

/-- `biasmem(i)` (`00_scope.md` R12). -/
def State.biasWord (s : State) (i : Nat) : I32 := s.biasMem.read32 (biasIdx i)

/-- `out(oy, ox, co)`, as the host reads it (`20_memory.md` R64). -/
def State.outputAt (s : State) (oy ox co : Nat) : I8 := s.outMem.read (s.cfg.outIdx oy ox co)

/-- The ring slot of window row `ky`, by modular addition (`30_encoding.md` R103, `43_window_assembler.md` R170). -/
def State.slot (s : State) (ky : Nat) : Nat := (s.rowPtr + ky) % s.cfg.k

/-- The micro-operation `PHASE` names, its operands copies of the cursors (`30_encoding.md` R94, R97; R129). -/
def Pos.instr (p : Pos) : Option Instr :=
  match p.phase with
  | .idle => none
  | .loadBias => some .loadBias
  | .loadWeights => some (.loadWeights p.co0 p.ci0)
  | .pushRow => some (.pushRow p.y p.ci0)
  | .buildWindow => some (.buildWindow p.y p.x)
  | .accumulate => some (.accumulate p.y p.x)
  | .requantizeWrite => some (.requantizeWrite p.y p.x)
  | .finish => some .finish

/-- The code of a `PHASE` (`30_encoding.md` R95). -/
def Phase.code : Phase → BitVec 3
  | .idle => 0
  | .loadBias => 1
  | .loadWeights => 2
  | .pushRow => 3
  | .buildWindow => 4
  | .accumulate => 5
  | .requantizeWrite => 6
  | .finish => 7

/-- The operation word at the sequencer position, a pure function of it (`30_encoding.md` R93). -/
def Pos.word (p : Pos) : Option OpWord := p.instr.bind encode

/-- The sequencer position at which an operation is the next one, the other cursors kept (`30_encoding.md` R94; log 18). -/
def Pos.placedAt (p : Pos) : Instr → Pos
  | .start => p
  | .waitDone => p
  | .loadBias => { p with phase := .loadBias }
  | .loadWeights co0 ci0 => { p with phase := .loadWeights, co0 := co0, ci0 := ci0 }
  | .pushRow y ci0 => { p with phase := .pushRow, y := y, ci0 := ci0 }
  | .buildWindow y x => { p with phase := .buildWindow, y := y, x := x }
  | .accumulate y x => { p with phase := .accumulate, y := y, x := x }
  | .requantizeWrite y x => { p with phase := .requantizeWrite, y := y, x := x }
  | .finish => { p with phase := .finish }

end Sys2Proof.Machine
end

