-- ==== Sys2Proof/Machine/Control.lean ====
section
/-! DEFINITION. `START`, `WAIT_DONE`, `LOAD_BIAS`, `FINISH` (`40_control_sequencer.md`). -/

namespace Sys2Proof.Machine

/-- Preconditions of `START` (`40_control_sequencer.md` R120): the references written, the buffers large enough (B6), no run
in progress (B9). -/
def startChecks (s : State) : List (Bool × Refusal) :=
  [(s.refsWritten && s.buffersFit, .b6Buffer), (!s.busy, .b9StartBusy)]

/-- The host part of `START`: the signal is set, and the host now waits for `DONE` (`40_control_sequencer.md` R120; logs 5
and 7). -/
def State.started (s : State) : State := { s with start := true, duty := .awaiting }

/-- `START` (`40_control_sequencer.md` R120, host part; the engine part is `State.accepted`). -/
def execStart (s : State) : Result := checked (startChecks s) (.next s.started)

/-- `WAIT_DONE` (`40_control_sequencer.md` R126): where it is enabled the host has observed `DONE` and owns the buffers
again, and nothing else changes; where it is not, the host goes on waiting and nothing changes (logs 5 and 6). -/
def execWaitDone (s : State) : Result :=
  if s.waitEnabled then .next { s with duty := .free } else .next s

/-- Preconditions of `LOAD_BIAS` (`40_control_sequencer.md` R121). `60_exceptions.md` R243 numbers no breach for another
`PHASE`: that an undersized `BIASMEM`, the numbered B6, is reported before it is the model's choice (DESIGN CHOICE, log 17). -/
def loadBiasChecks (s : State) : List (Bool × Refusal) :=
  [(decide (s.cfg.biasBytes ≤ s.biasMem.size), .b6Buffer),
   (decide (s.pc.phase = .loadBias), .outOfSchedule "LOAD_BIAS")]

/-- The effect of `LOAD_BIAS` (`40_control_sequencer.md` R121). -/
def State.biasLoaded (s : State) : State :=
  { s with
    bias := tab s.cfg.cout fun i => s.biasWord i
    biasValid := true
    pc := ⟨.loadWeights, 0, 0, 0, s.cfg.k - 1⟩ }

/-- `LOAD_BIAS` (`40_control_sequencer.md` R121). -/
def execLoadBias (s : State) : Result := checked (loadBiasChecks s) (.next s.biasLoaded)

/-- Precondition of `FINISH` (`40_control_sequencer.md` R122). -/
def finishChecks (s : State) : List (Bool × Refusal) :=
  [(decide (s.pc.phase = .finish), .outOfSchedule "FINISH")]

/-- The effect of `FINISH` (`40_control_sequencer.md` R122). -/
def State.finished (s : State) : State := { s with done := true, pc := { s.pc with phase := .idle } }

/-- `FINISH` (`40_control_sequencer.md` R122). -/
def execFinish (s : State) : Result := checked (finishChecks s) (.next s.finished)

end Sys2Proof.Machine
end

