-- ==== Sys2Proof/Machine/LineBuffer.lean ====
section
/-! DEFINITION. The line buffer manager: `PUSH_ROW` (`42_line_buffer_manager.md`). -/

namespace Sys2Proof.Machine

/-- Preconditions of `PUSH_ROW y, ci0` (`42_line_buffer_manager.md` R160). -/
def pushRowChecks (y ci0 : Nat) (s : State) : List (Bool × Refusal) :=
  [(decide (s.pc.phase = .pushRow ∧ y = s.pc.y ∧ ci0 = s.pc.ci0 ∧ s.rowsPushed = some ⟨ci0, y⟩ ∧ y < s.cfg.h ∧
      s.cfg.CiOrigin ci0), .b2RowOrder),
   (decide (s.cfg.inBytes ≤ s.inMem.size), .b6Buffer)]

/-- Input row `y` of channel tile `ci0` (`42_line_buffer_manager.md` R160). -/
def State.inputRow (s : State) (y ci0 : Nat) : List (List I8) :=
  tab s.cfg.w fun x => tab s.cfg.ciTile fun ci => s.inputAt y x (ci0 + ci)

/-- The effect of `PUSH_ROW y, ci0` (`42_line_buffer_manager.md` R160): the row goes to slot `ROW_PTR`, then the cursor
advances. -/
def State.rowPushed (s : State) (y ci0 : Nat) : State :=
  { s with
    lineBuf := tab s.cfg.k fun r => if r = s.rowPtr then s.inputRow y ci0 else row s.lineBuf r
    rowPtr := (s.rowPtr + 1) % s.cfg.k
    rowsPushed := some ⟨ci0, y + 1⟩
    windowTag := none
    pc :=
      if s.cfg.k - 1 ≤ y then { s.pc with phase := .buildWindow, x := s.cfg.k - 1 }
      else { s.pc with phase := .pushRow, y := y + 1, x := s.cfg.k - 1 } }

/-- `PUSH_ROW y, ci0` (`42_line_buffer_manager.md` R160). -/
def execPushRow (y ci0 : Nat) (s : State) : Result :=
  checked (pushRowChecks y ci0 s) (.next (s.rowPushed y ci0))

end Sys2Proof.Machine
end

