-- ==== Sys2Proof/Machine/MacUnit.lean ====
section
/-! DEFINITION. The MAC and accumulation unit: `ACCUMULATE` (`44_mac_accumulate_unit.md`). -/

namespace Sys2Proof.Machine

/-- The value lane `co` starts from: the bias on the first tile, else its running sum (`44_mac_accumulate_unit.md` R180). -/
def State.laneBase (s : State) (oy ox co : Nat) : Option I32 :=
  if s.firstTile then s.biasAt (s.pc.co0 + co) else s.accAt oy ox co

/-- The product of tap `(ky, kx, ci)` in lane `co` (`44_mac_accumulate_unit.md` R180, R181). -/
def State.tap (s : State) (co ky kx ci : Nat) : Int :=
  product ((s.windowAt ky kx ci).getD 0) ((s.wbufAt co ci ky kx).getD 0)

/-- The exact sum of lane `co` over the tile's `K*K*CI_TILE` taps (`44_mac_accumulate_unit.md` R180). -/
def State.laneSum (s : State) (co : Nat) : Int :=
  sumTo s.cfg.k fun ky => sumTo s.cfg.k fun kx => sumTo s.cfg.ciTile fun ci => s.tap co ky kx ci

/-- The new running sum of lane `co`: `wrap_32(base + s)` (`44_mac_accumulate_unit.md` R182). -/
def State.laneResult (s : State) (oy ox co : Nat) : I32 :=
  wrap32 (((s.laneBase oy ox co).getD 0).toInt + s.laneSum co)

/-- Every on-chip element `ACCUMULATE` reads holds a value (`10_state.md` R46, breach B10). -/
def State.lanesHeld (s : State) (oy ox : Nat) : Bool :=
  decide (∀ co, co < s.cfg.coTile → (s.laneBase oy ox co).isSome ∧
    ∀ ky, ky < s.cfg.k → ∀ kx, kx < s.cfg.k → ∀ ci, ci < s.cfg.ciTile →
      (s.windowAt ky kx ci).isSome ∧ (s.wbufAt co ci ky kx).isSome)

/-- Weights, window and bias or bank are those of the current tile pair and pixel (`44_mac_accumulate_unit.md` R180). The tags
alone decide it, also where a lifetime has ended with its tag standing (DESIGN CHOICE, log 36). -/
def State.operandsCurrent (s : State) (y x : Nat) : Bool :=
  decide (s.windowTag = some ⟨s.pc.ci0, y, x⟩) && decide (s.wbufTag = some ⟨s.pc.co0, s.pc.ci0⟩) &&
    (if s.firstTile then s.biasValid
     else decide (s.accTagAt (s.cfg.outCoord y) (s.cfg.outCoord x) = some ⟨s.pc.co0, s.pc.ci0⟩))

/-- Preconditions of `ACCUMULATE y, x` (`44_mac_accumulate_unit.md` R180). -/
def accumulateChecks (y x : Nat) (s : State) : List (Bool × Refusal) :=
  [(decide (s.pc.phase = .accumulate ∧ y = s.pc.y ∧ x = s.pc.x) && s.cfg.isPixel y x && s.operandsCurrent y x,
    .b4StaleOperand),
   (s.lanesHeld (s.cfg.outCoord y) (s.cfg.outCoord x), .b10NoValue)]

/-- The accumulator banks with the bank of pixel `(oy, ox)` replaced (`10_state.md` R32; log 26). -/
def State.withBank (s : State) (oy ox : Nat) (bank : List I32) : List (List (List I32)) :=
  tab s.cfg.oh fun r => tab s.cfg.ow fun q => if r = oy ∧ q = ox then bank else row (row s.acc r) q

/-- The bank tags with the tag of pixel `(oy, ox)` replaced (`10_state.md` R46; log 26). -/
def State.withBankTag (s : State) (oy ox : Nat) (tag : AccTag) : List (List (Option AccTag)) :=
  tab s.cfg.oh fun r => tab s.cfg.ow fun q => if r = oy ∧ q = ox then some tag else s.accTagAt r q

/-- The effect of `ACCUMULATE y, x` (`44_mac_accumulate_unit.md` R180). -/
def State.accumulated (s : State) (y x : Nat) : State :=
  { s with
    acc := s.withBank (s.cfg.outCoord y) (s.cfg.outCoord x)
      (tab s.cfg.coTile fun co => s.laneResult (s.cfg.outCoord y) (s.cfg.outCoord x) co)
    accTag := s.withBankTag (s.cfg.outCoord y) (s.cfg.outCoord x) ⟨s.pc.co0, s.pc.ci0 + s.cfg.ciTile⟩
    pc := if s.lastTile then { s.pc with phase := .requantizeWrite } else s.pc.advance s.cfg }

/-- `ACCUMULATE y, x` (`44_mac_accumulate_unit.md` R180). -/
def execAccumulate (y x : Nat) (s : State) : Result :=
  checked (accumulateChecks y x s) (.next (s.accumulated y x))

end Sys2Proof.Machine
end

