-- ==== Sys2Proof/Machine/Requantizer.lean ====
section
/-! DEFINITION. The output requantizer and writer: `REQUANTIZE_WRITE` (`45_output_requantizer.md`). -/

namespace Sys2Proof.Machine

/-- Every lane of the pixel's bank holds a value (`10_state.md` R46, breach B10; log 36 for a finalised bank). -/
def State.bankHeld (s : State) (oy ox : Nat) : Bool :=
  decide (∀ co, co < s.cfg.coTile → (s.accAt oy ox co).isSome)

/-- Preconditions of `REQUANTIZE_WRITE y, x` (`45_output_requantizer.md` R201). `10_state.md` R41 and R46 let a bank hold no
value after its finalisation, and no rule clears its tag there: that a driver's second `REQUANTIZE_WRITE` of the pixel passes
these checks, and is not B10, is the model's choice (DESIGN CHOICE, log 36). -/
def requantizeWriteChecks (y x : Nat) (s : State) : List (Bool × Refusal) :=
  [(decide (s.pc.phase = .requantizeWrite ∧ y = s.pc.y ∧ x = s.pc.x) && s.cfg.isPixel y x && s.lastTile &&
      decide (s.accTagAt (s.cfg.outCoord y) (s.cfg.outCoord x) = some ⟨s.pc.co0, s.cfg.cin⟩), .b5NotFinal),
   (decide (s.cfg.outBytes ≤ s.outMem.size), .b6Buffer),
   (s.bankHeld (s.cfg.outCoord y) (s.cfg.outCoord x), .b10NoValue)]

/-- The output byte of lane `co` and its offset in `OUT` (`45_output_requantizer.md` R201, `20_memory.md` R64). -/
def State.laneOutput (s : State) (oy ox co : Nat) : Nat × I8 :=
  (s.cfg.outIdx oy ox (s.pc.co0 + co), requant ((s.accAt oy ox co).getD 0))

/-- The effect of `REQUANTIZE_WRITE y, x` (`45_output_requantizer.md` R201). -/
def State.requantized (s : State) (y x : Nat) : State :=
  { s with
    outMem := s.outMem.writeAll (tab s.cfg.coTile fun co => s.laneOutput (s.cfg.outCoord y) (s.cfg.outCoord x) co)
    pc := s.pc.advance s.cfg }

/-- `REQUANTIZE_WRITE y, x` (`45_output_requantizer.md` R201). -/
def execRequantizeWrite (y x : Nat) (s : State) : Result :=
  checked (requantizeWriteChecks y x s) (.next (s.requantized y x))

end Sys2Proof.Machine
end

