-- ==== Sys2Proof/Machine/WeightLoader.lean ====
section
/-! DEFINITION. The weight tile loader: `LOAD_WEIGHTS` (`41_weight_tile_loader.md`). -/

namespace Sys2Proof.Machine

/-- Preconditions of `LOAD_WEIGHTS co0, ci0` (`41_weight_tile_loader.md` R150). -/
def loadWeightsChecks (co0 ci0 : Nat) (s : State) : List (Bool × Refusal) :=
  [(decide (s.pc.phase = .loadWeights ∧ co0 = s.pc.co0 ∧ ci0 = s.pc.ci0 ∧ s.cfg.CoOrigin co0 ∧ s.cfg.CiOrigin ci0),
    .b1TileOrigin),
   (decide (s.cfg.wgtBytes ≤ s.wgtMem.size), .b6Buffer)]

/-- The effect of `LOAD_WEIGHTS co0, ci0` (`41_weight_tile_loader.md` R150). -/
def State.weightsLoaded (s : State) (co0 ci0 : Nat) : State :=
  { s with
    wbuf := tab s.cfg.coTile fun co => tab s.cfg.ciTile fun ci => tab s.cfg.k fun ky => tab s.cfg.k fun kx =>
      s.weightAt (co0 + co) (ci0 + ci) ky kx
    wbufTag := some ⟨co0, ci0⟩
    rowPtr := 0
    rowsPushed := some ⟨ci0, 0⟩
    windowTag := none
    pc := { s.pc with phase := .pushRow, y := 0, x := s.cfg.k - 1 } }

/-- `LOAD_WEIGHTS co0, ci0` (`41_weight_tile_loader.md` R150). -/
def execLoadWeights (co0 ci0 : Nat) (s : State) : Result :=
  checked (loadWeightsChecks co0 ci0 s) (.next (s.weightsLoaded co0 ci0))

end Sys2Proof.Machine
end

