-- ==== Sys2Proof/Machine/WindowAssembler.lean ====
section
/-! DEFINITION. The window assembler: `BUILD_WINDOW` (`43_window_assembler.md`). -/

namespace Sys2Proof.Machine

/-- The ring element window element `(ky, kx, ci)` is copied from (`43_window_assembler.md` R170). -/
def State.windowSource (s : State) (x ky kx ci : Nat) : Option I8 :=
  s.lineAt (s.slot ky) (s.cfg.windowColumn x kx) ci

/-- Every ring element the window at column `x` reads holds a value (`10_state.md` R46, breach B10). -/
def State.windowSourceHeld (s : State) (x : Nat) : Bool :=
  decide (∀ ky, ky < s.cfg.k → ∀ kx, kx < s.cfg.k → ∀ ci, ci < s.cfg.ciTile → (s.windowSource x ky kx ci).isSome)

/-- Preconditions of `BUILD_WINDOW y, x` (`43_window_assembler.md` R170). -/
def buildWindowChecks (y x : Nat) (s : State) : List (Bool × Refusal) :=
  [(decide (s.pc.phase = .buildWindow ∧ y = s.pc.y ∧ x = s.pc.x) && s.cfg.isPixel y x &&
      decide (s.rowsPushed = some ⟨s.pc.ci0, y + 1⟩), .b3NoWindow),
   (s.windowSourceHeld x, .b10NoValue)]

/-- The effect of `BUILD_WINDOW y, x` (`43_window_assembler.md` R170). -/
def State.windowBuilt (s : State) (y x : Nat) : State :=
  { s with
    window := tab s.cfg.k fun ky => tab s.cfg.k fun kx => tab s.cfg.ciTile fun ci =>
      (s.windowSource x ky kx ci).getD 0
    windowTag := some ⟨s.pc.ci0, y, x⟩
    pc := { s.pc with phase := .accumulate } }

/-- `BUILD_WINDOW y, x` (`43_window_assembler.md` R170). -/
def execBuildWindow (y x : Nat) (s : State) : Result :=
  checked (buildWindowChecks y x s) (.next (s.windowBuilt y x))

end Sys2Proof.Machine
end

