-- ==== Sys2Proof/Machine/Dispatch.lean ====
section
/-! DEFINITION. One arm per operation of spec/opcode_table.json. -/

namespace Sys2Proof.Machine

def exec (i : Instr) (s : State) : Host.Outcome State Fault Refusal :=
  match i with
  | .start => Sys2Proof.Machine.execStart s
  | .waitDone => Sys2Proof.Machine.execWaitDone s
  | .loadBias => Sys2Proof.Machine.execLoadBias s
  | .loadWeights co0 ci0 => Sys2Proof.Machine.execLoadWeights co0 ci0 s
  | .pushRow y ci0 => Sys2Proof.Machine.execPushRow y ci0 s
  | .buildWindow y x => Sys2Proof.Machine.execBuildWindow y x s
  | .accumulate y x => Sys2Proof.Machine.execAccumulate y x s
  | .requantizeWrite y x => Sys2Proof.Machine.execRequantizeWrite y x s
  | .finish => Sys2Proof.Machine.execFinish s

end Sys2Proof.Machine
end

