-- ==== Sys2Proof/Machine/Agents.lean ====
section
/-! DEFINITION. The moves of the three agents: the engine (`40_control_sequencer.md` R129), the host (R120, R126;
`20_memory.md` R75, R80; `70_reset_and_hazards.md` R270 to R272) and the out-of-schedule driver (`60_exceptions.md` R243). -/

namespace Sys2Proof.Machine

/-- One step of the engine (`40_control_sequencer.md` R129): in `IDLE` it accepts a pending `START` or waits, else it executes
the micro-operation at the sequencer position. -/
def engineMove (s : State) : Result :=
  match s.pc.instr with
  | none => if s.start then .next s.accepted else .next s
  | some i => exec i s

/-- The host has read this. -/
def State.sees (s : State) (v : HostValue) : State := { s with hostSaw := some v }

/-- A write of one byte by the host: outside the contract while a run is outstanding (B8), and there is no byte past the
buffer's end (log 30). -/
def hostWrite (sp : Space) (offset : Nat) (byte : I8) (s : State) : Result :=
  checked [(s.hostMayTouch, .b8HostAccess)]
    (if offset < (s.space sp).size then .next (s.withSpace sp ((s.space sp).write offset byte))
     else .fault (.noSuchByte sp offset))

/-- A read of one byte of a buffer by the host: outside the contract where it may not read it (B8), and there is no byte past
the buffer's end (log 30). The byte goes to `hostSaw` (log 35). -/
def hostRead (sp : Space) (offset : Nat) (s : State) : Result :=
  checked [(s.hostMayRead sp, .b8HostAccess)]
    (if offset < (s.space sp).size then .next (s.sees (.byte ((s.space sp).read offset)))
     else .fault (.noSuchByte sp offset))

/-- One move of the host (`00_scope.md` R18). -/
def hostMove (m : HostMove) (s : State) : Result :=
  match m with
  | .start => exec .start s
  | .waitDone => exec .waitDone s
  | .setRef sp handle => checked [(s.hostMayTouch, .b8HostAccess)] (.next (s.withRef sp ⟨handle, true⟩))
  | .provide sp bytes => checked [(s.hostMayTouch, .b8HostAccess)] (.next (s.withSpace sp (Memory.ofBytes bytes)))
  | .write sp offset byte => hostWrite sp offset byte s
  | .read sp offset => hostRead sp offset s
  | .readRef sp => checked [(s.hostMayTouch, .b8HostAccess)] (.next (s.sees (.handle (s.ref sp).handle)))

/-- The host cannot make this move yet: it waits for `DONE` (`40_control_sequencer.md` R126, R127). -/
def hostWaits (m : HostMove) (s : State) : Bool := decide (m = .waitDone) && !s.waitEnabled

/-- The driver issues an operation word: the sequencer is placed at the operation the word names, which is then executed
(`60_exceptions.md` R243, `30_encoding.md` R98; log 18). -/
def driverMove (w : OpWord) (s : State) : Result :=
  match decode w with
  | .ok i => exec i { s with pc := s.pc.placedAt i }
  | .error e => .refused (.reservedWord e)

/-- The turn at the head of the agenda is taken; a host that waits leaves the turn to the engine and keeps its place; with
no turn listed the engine moves (`00_scope.md` R18; log 4). The reset event is a turn of its own (log 34). -/
def takeTurn (s : State) : Result :=
  match s.agenda with
  | [] => engineMove s
  | .engine :: rest => engineMove { s with agenda := rest }
  | .host m :: rest => if hostWaits m s then engineMove s else hostMove m { s with agenda := rest }
  | .driver w :: rest => driverMove w { s with agenda := rest }
  | .reset :: rest => .next ({ s with agenda := rest } : State).resetEvent

/-- The turns of one host call: the four buffers, the four references, `START`, `WAIT_DONE`
(`70_reset_and_hazards.md` R272, `40_control_sequencer.md` R127). -/
def callTurns (bytes : Space → List I8) (handle : Space → Nat) : List Turn :=
  ([.input, .weights, .biases, .output].map fun sp => Turn.host (.provide sp (bytes sp))) ++
    ([.input, .weights, .biases, .output].map fun sp => Turn.host (.setRef sp (handle sp))) ++
    [.host .start, .host .waitDone]

/-- The driver's turn to issue a word, put before every other turn: this is where the next step takes its word from. -/
def State.issueFirst (s : State) (w : OpWord) : State := { s with agenda := .driver w :: s.agenda }

end Sys2Proof.Machine
end

