-- ==== Sys2Proof/Machine/Step.lean ====
section
/-! DEFINITION. One step of the machine: one turn of one agent. -/

namespace Sys2Proof.Machine

/-- One step (`00_scope.md` R18, `40_control_sequencer.md` R129). -/
def step (s : State) : Host.Outcome State Fault Refusal := takeTurn s

/-- `s` with a table word as the very next turn: the engine fetches nothing (`20_memory.md` R78), so the word is issued by the
driver (log 24). -/
def State.withFetchWord (s : State) (nbits w : Nat) : State := s.issueFirst (tableWord nbits w)

end Sys2Proof.Machine
end

