-- ==== Sys2Proof/Machine/Reference.lean ====
section
/-! DEFINITION. The reference model, the validation harness (`46_reference_model.md`) and the run as one big step
(`40_control_sequencer.md` R125). They are not hardware: the engine's correctness is stated by them. -/

namespace Sys2Proof.Machine

/-- One term of the reference's innermost loop: the accumulator plus one product, wrapped (`46_reference_model.md` R217). -/
def State.refTerm (s : State) (co oy ox ci ky kx : Nat) (acc : I32) : I32 :=
  wrap32 (acc.toInt + product (s.inputAt (oy + ky) (ox + kx) ci) (s.weightAt co ci ky kx))

/-- The reference's accumulator for one output: the loops `ci`, `ky`, `kx` from the bias on (`46_reference_model.md` R217). -/
def State.refAcc (s : State) (co oy ox : Nat) : I32 :=
  loopTo s.cfg.cin
    (fun ci acc => loopTo s.cfg.k
      (fun ky acc => loopTo s.cfg.k (fun kx acc => s.refTerm co oy ox ci ky kx acc) acc) acc)
    (s.biasWord co)

/-- The reference's output element (`46_reference_model.md` R217). -/
def State.refOut (s : State) (co oy ox : Nat) : I8 := requant (s.refAcc co oy ox)

/-- The reference's output tensor as bytes, in the order of `OUT` (`46_reference_model.md` R217, `20_memory.md` R64). -/
def State.refBytes (s : State) : List I8 :=
  tab s.cfg.outBytes fun i => s.refOut (i % s.cfg.cout) (i / s.cfg.cout / s.cfg.ow) (i / s.cfg.cout % s.cfg.ow)

/-- The mismatches between `OUT` and the reference: index, engine value, reference value, in increasing index order
(`46_reference_model.md` R218). -/
def State.mismatches (s : State) : List (Nat × I8 × I8) :=
  (tab s.cfg.outBytes fun i => (i, s.outMem.read i, s.refBytes[i]?.getD 0)).filter fun e => e.2.1 ≠ e.2.2

/-- What the harness shows: success, the mismatch count and the first `nReport` mismatches; `N_REPORT` is an OPEN parameter
(`46_reference_model.md` R218, D22; log 32). -/
def State.harness (s : State) (nReport : Nat) : Bool × Nat × List (Nat × I8 × I8) :=
  (s.mismatches.length == 0, s.mismatches.length, s.mismatches.take nReport)

/-- The bytes of one bias element in memory order (`20_memory.md` R66). -/
def biasBytesOf (v : I32) : List I8 :=
  [v.extractLsb' 0 8, v.extractLsb' 8 8, v.extractLsb' 16 8, v.extractLsb' 24 8]

/-- The buffers of the end-to-end scenario (`46_reference_model.md` R224): `in[i] = (i mod 13) - 6`, `w[i] = (i mod 7) - 3`,
`b[i] = i mod 16`; `OUT` needs no initialisation. -/
def scenarioBytes (c : Config) : Space → List I8
  | .input => tab c.inBytes fun i => BitVec.ofInt 8 ((i % 13 : Nat) - 6 : Int)
  | .weights => tab c.wgtBytes fun i => BitVec.ofInt 8 ((i % 7 : Nat) - 3 : Int)
  | .biases => (tab c.cout fun i => biasBytesOf (BitVec.ofNat 32 (i % 16))).flatten
  | .output => tab c.outBytes fun _ => 0

/-- The accumulated value of output channel `co` at pixel `(oy, ox)` over the input channels below `n`: bias plus exact sum,
wrapped (`40_control_sequencer.md` R125; `44_mac_accumulate_unit.md` R183). -/
def State.partialAcc (s : State) (co oy ox n : Nat) : I32 :=
  wrap32 ((s.biasWord co).toInt + sumTo n fun ci => sumTo s.cfg.k fun ky => sumTo s.cfg.k fun kx =>
    product (s.inputAt (oy + ky) (ox + kx) ci) (s.weightAt co ci ky kx))

/-- The output element of the big step `RUN` (`40_control_sequencer.md` R125). -/
def State.bigStepOut (s : State) (co oy ox : Nat) : I8 := requant (s.partialAcc co oy ox s.cfg.cin)

end Sys2Proof.Machine
end

