-- ==== Sys2Proof/Machine/Trace.lean ====
section
/-! DEFINITION. Trace syntax and pseudo-operations (`30_encoding.md` R101, R102), and the stream the sequencer generates
(`40_control_sequencer.md` R123, R124, R128). -/

namespace Sys2Proof.Machine

/-- A trace line with two explicit operands (`30_encoding.md` R101). -/
def traceTwo (mnemonic : String) (a b : Nat) : String := mnemonic ++ " " ++ toString a ++ ", " ++ toString b

/-- The trace line of an operation (`30_encoding.md` R101). -/
def traceLine : Instr → String
  | .start => Instr.start.mnemonic
  | .waitDone => Instr.waitDone.mnemonic
  | .loadBias => Instr.loadBias.mnemonic
  | .loadWeights co0 ci0 => traceTwo "LOAD_WEIGHTS" co0 ci0
  | .pushRow y ci0 => traceTwo "PUSH_ROW" y ci0
  | .buildWindow y x => traceTwo "BUILD_WINDOW" y x
  | .accumulate y x => traceTwo "ACCUMULATE" y x
  | .requantizeWrite y x => traceTwo "REQUANTIZE_WRITE" y x
  | .finish => Instr.finish.mnemonic

/-- `f 0 ++ f 1 ++ … ++ f (n-1)`. -/
def concatTo {α : Type} (n : Nat) (f : Nat → List α) : List α := (tab n f).flatten

/-- `PIXEL y, x` with `CI0 = ci0` in force (`30_encoding.md` R102). -/
def pixelOps (c : Config) (ci0 y x : Nat) : List Instr :=
  [.buildWindow y x, .accumulate y x] ++ (if ci0 = c.cin - c.ciTile then [.requantizeWrite y x] else [])

/-- `ROW y` with `CI0 = ci0` in force (`30_encoding.md` R102). -/
def rowOps (c : Config) (ci0 y : Nat) : List Instr :=
  .pushRow y ci0 :: (if c.k - 1 ≤ y then concatTo c.ow fun n => pixelOps c ci0 y (c.k - 1 + n) else [])

/-- `SCAN co0, ci0` (`30_encoding.md` R102). -/
def scanOps (c : Config) (co0 ci0 : Nat) : List Instr :=
  .loadWeights co0 ci0 :: concatTo c.h fun y => rowOps c ci0 y

/-- `RUN` (`30_encoding.md` R102, `40_control_sequencer.md` R124). -/
def runOps (c : Config) : List Instr :=
  .loadBias ::
    (concatTo (c.cout / c.coTile) fun m => concatTo (c.cin / c.ciTile) fun n => scanOps c (m * c.coTile) (n * c.ciTile)) ++
    [.finish]

/-- `INVOKE` (`30_encoding.md` R102). -/
def invokeOps (c : Config) : List Instr := .start :: runOps c ++ [.waitDone]

/-- The number of tile pairs, `T` (`40_control_sequencer.md` R128). -/
def tilePairs (c : Config) : Nat := c.cout / c.coTile * (c.cin / c.ciTile)

/-- The micro-operations of one run (`40_control_sequencer.md` R128). -/
def runLength (c : Config) : Nat :=
  1 + tilePairs c + tilePairs c * c.h + 2 * (tilePairs c * (c.oh * c.ow)) + c.cout / c.coTile * (c.oh * c.ow) + 1

/-- The first `n` micro-operations the schedule issues from a position, and the position after them (`40_control_sequencer.md`
R123); the schedule stops at `IDLE`. -/
def issueFrom (c : Config) : Nat → Pos → List Instr × Pos
  | 0, p => ([], p)
  | n + 1, p =>
    match p.instr with
    | none => ([], p)
    | some i => (i :: (issueFrom c n (p.next c)).1, (issueFrom c n (p.next c)).2)

/-- The position of the first micro-operation of a run (`40_control_sequencer.md` R120). -/
def runStart (c : Config) : Pos := ⟨.loadBias, 0, 0, 0, c.k - 1⟩

end Sys2Proof.Machine
end

