-- ==== Sys2Proof/Safety.lean ====
section
/-! DEFINITION. What a safe run is, in the terms the statements use: the legal ranges of the registers, the canonical form of
memory, and the invariant of an outstanding run (`10_state.md` R23 to R27, R40 to R43, R46; `40_control_sequencer.md` R124). -/

namespace Sys2Proof.Machine

/-- The sequencer registers and the ring cursor lie in the ranges of `10_state.md` R23 to R27 (for `X`: R26's range as a
register). -/
abbrev State.CursorsInRange (s : State) : Prop :=
  s.cfg.CoOrigin s.pc.co0 ∧ s.cfg.CiOrigin s.pc.ci0 ∧ s.pc.y < s.cfg.h ∧ s.pc.x < s.cfg.w ∧ s.rowPtr < s.cfg.k

/-- `X` has left its reset value: its range during and after a run (`10_state.md` R26). -/
abbrev State.ColumnVisited (s : State) : Prop := s.pc.phase ≠ .idle → s.cfg.k - 1 ≤ s.pc.x

/-- The four spaces are in canonical form. -/
abbrev State.MemoryWf (s : State) : Prop := s.inMem.wf ∧ s.wgtMem.wf ∧ s.biasMem.wf ∧ s.outMem.wf

/-- Pixels of the current scan whose `ACCUMULATE` is done at a position, in scan order (`40_control_sequencer.md` R124). -/
def Pos.pixelsAccumulated (c : Config) (p : Pos) : Nat :=
  match p.phase with
  | .idle => 0
  | .loadBias => 0
  | .loadWeights => 0
  | .pushRow => (p.y + 1 - c.k) * c.ow
  | .buildWindow => c.outCoord p.y * c.ow + c.outCoord p.x
  | .accumulate => c.outCoord p.y * c.ow + c.outCoord p.x
  | .requantizeWrite => c.outCoord p.y * c.ow + c.outCoord p.x + 1
  | .finish => c.oh * c.ow

/-- Pixels of the current scan whose `REQUANTIZE_WRITE` is done, if the scan is the last of its output tile. -/
def Pos.pixelsWritten (c : Config) (p : Pos) : Nat :=
  if p.phase = .requantizeWrite then c.outCoord p.y * c.ow + c.outCoord p.x else p.pixelsAccumulated c

/-- Input channels the bank of pixel `(oy, ox)` holds for the current output tile (`10_state.md` R41). -/
def Pos.channelsDone (c : Config) (p : Pos) (oy ox : Nat) : Nat :=
  if oy * c.ow + ox < p.pixelsAccumulated c then p.ci0 + c.ciTile else p.ci0

/-- The position is one the schedule visits during a run (`40_control_sequencer.md` R124). -/
def Pos.Scheduled (c : Config) (p : Pos) : Prop :=
  c.CoOrigin p.co0 ∧ c.CiOrigin p.ci0 ∧ p.y < c.h ∧ c.ScanColumn p.x ∧
    match p.phase with
    | .idle => False
    | .loadBias => p = runStart c
    | .loadWeights => p.y = 0 ∧ p.x = c.k - 1
    | .pushRow => p.x = c.k - 1
    | .buildWindow => c.k - 1 ≤ p.y
    | .accumulate => c.k - 1 ≤ p.y
    | .requantizeWrite => c.k - 1 ≤ p.y ∧ p.ci0 = c.cin - c.ciTile
    | .finish => p.co0 = c.cout - c.coTile ∧ p.ci0 = c.cin - c.ciTile

/-- `BIAS` is the bias vector (`10_state.md` R43). -/
def State.BiasLoaded (s : State) : Prop :=
  s.biasValid = true ∧ ∀ i, i < s.cfg.cout → s.biasAt i = some (s.biasWord i)

/-- `WBUF` is the weight tile of the current pair (`10_state.md` R42). -/
def State.TileLoaded (s : State) : Prop :=
  s.wbufTag = some ⟨s.pc.co0, s.pc.ci0⟩ ∧
    ∀ co, co < s.cfg.coTile → ∀ ci, ci < s.cfg.ciTile → ∀ ky, ky < s.cfg.k → ∀ kx, kx < s.cfg.k →
      s.wbufAt co ci ky kx = some (s.weightAt (s.pc.co0 + co) (s.pc.ci0 + ci) ky kx)

/-- The ring holds the last rows of the `n` pushed in this scan, row `r` in slot `r mod K` (`10_state.md` R40). -/
def State.RingHolds (s : State) (n : Nat) : Prop :=
  s.rowsPushed = some ⟨s.pc.ci0, n⟩ ∧ s.rowPtr = n % s.cfg.k ∧
    ∀ r, r < n → n ≤ r + s.cfg.k → ∀ x, x < s.cfg.w → ∀ ci, ci < s.cfg.ciTile →
      s.lineAt (r % s.cfg.k) x ci = some (s.inputAt r x (s.pc.ci0 + ci))

/-- `WINDOW` is the neighbourhood of the current pixel (`43_window_assembler.md` R170, result). -/
def State.WindowHolds (s : State) : Prop :=
  s.windowTag = some ⟨s.pc.ci0, s.pc.y, s.pc.x⟩ ∧
    ∀ ky, ky < s.cfg.k → ∀ kx, kx < s.cfg.k → ∀ ci, ci < s.cfg.ciTile →
      s.windowAt ky kx ci =
        some (s.inputAt (s.cfg.outCoord s.pc.y + ky) (s.cfg.outCoord s.pc.x + kx) (s.pc.ci0 + ci))

/-- The on-chip buffers the current phase and the later ones of the scan read hold what the schedule put there. -/
def State.BuffersHold (s : State) : Prop :=
  match s.pc.phase with
  | .idle => False
  | .loadBias => True
  | .loadWeights => s.BiasLoaded
  | .pushRow => s.BiasLoaded ∧ s.TileLoaded ∧ s.RingHolds s.pc.y
  | .buildWindow => s.BiasLoaded ∧ s.TileLoaded ∧ s.RingHolds (s.pc.y + 1)
  | .accumulate => s.BiasLoaded ∧ s.TileLoaded ∧ s.RingHolds (s.pc.y + 1) ∧ s.WindowHolds
  | .requantizeWrite => s.BiasLoaded ∧ s.TileLoaded ∧ s.RingHolds (s.pc.y + 1)
  | .finish => True

/-- Each pixel's bank holds the bias plus the channels done so far (`10_state.md` R41, R46). -/
def State.BanksHold (s : State) : Prop :=
  ∀ oy, oy < s.cfg.oh → ∀ ox, ox < s.cfg.ow → 0 < s.pc.channelsDone s.cfg oy ox →
    s.accTagAt oy ox = some ⟨s.pc.co0, s.pc.channelsDone s.cfg oy ox⟩ ∧
      ∀ co, co < s.cfg.coTile →
        s.accAt oy ox co = some (s.partialAcc (s.pc.co0 + co) oy ox (s.pc.channelsDone s.cfg oy ox))

/-- The output elements already written: all of the earlier output tiles, and on the last input tile the pixels requantized
in this scan (`40_control_sequencer.md` R124). -/
def State.OutputWritten (s : State) (co oy ox : Nat) : Prop :=
  co < s.pc.co0 ∨
    (co < s.pc.co0 + s.cfg.coTile ∧ s.pc.ci0 = s.cfg.cin - s.cfg.ciTile ∧ oy * s.cfg.ow + ox < s.pc.pixelsWritten s.cfg)

/-- Every element written so far is the big step's (`40_control_sequencer.md` R125). -/
def State.OutputHolds (s : State) : Prop :=
  ∀ oy, oy < s.cfg.oh → ∀ ox, ox < s.cfg.ow → ∀ co, co < s.cfg.cout →
    s.OutputWritten co oy ox → s.outputAt oy ox co = s.bigStepOut co oy ox

/-- The invariant of an outstanding run in the fixed schedule (`10_state.md` R46, `40_control_sequencer.md` R124). -/
def State.RunInv (s : State) : Prop :=
  s.outMem.wf ∧ s.buffersFit = true ∧ s.pc.Scheduled s.cfg ∧ s.BuffersHold ∧ s.BanksHold ∧ s.OutputHolds

end Sys2Proof.Machine
end

