-- ==== Sys2Proof/Certificates/Slice0/Obligations.lean ====
section
/-! DEFINITION. The statements for the provers, from the numbered rules of spec/. A frame is written
`t = { s with f := t.f, … }`: every field but those named is as before, each byte of the four memories among them. -/

open Sys2Proof Sys2Proof.Machine

/-! ### Words -/

/-- `30_encoding.md` R101, `95_test_vectors.md` 2.1: words printed by the spec.
The operation words are the spec's own decision D10 (log 33). -/
def Obligations.PrintedWordsDecode : Prop :=
  decode 0x10000000 = .ok .loadBias ∧ decode 0x20010000 = .ok (.loadWeights 4 0) ∧
  decode 0x3000C001 = .ok (.pushRow 3 1) ∧ decode 0x40008003 = .ok (.buildWindow 2 3) ∧
  decode 0x50064019 = .ok (.accumulate 25 25) ∧ decode 0x6FFFFFFF = .ok (.requantizeWrite 16383 16383) ∧
  decode 0x70000000 = .ok .finish ∧ decode 0x80000000 = .error (.reservedOpcode 8) ∧
  decode 0x70004000 = .error (.nonzeroOperand 7)

/-- `30_encoding.md` R93, R94, R96, R97: an engine operation whose operands fit has a word, which decodes to it; a host
operation, or one with an operand that does not fit its field, has none. The operation words are the spec's own decision D10 (log 33). -/
def Obligations.DecodeOfEncode : Prop :=
  ∀ i : Instr, (i.hasWord = true → i.wf = true → ∃ w, encode i = some w ∧ decode w = .ok i) ∧
    (i.hasWord = false ∨ i.wf = false → encode i = none)

/-- `30_encoding.md` R94, R97: an accepted word is the word of the operation it decodes to; no bit is dropped.
The operation words are the spec's own decision D10 (log 33). -/
def Obligations.EncodeOfDecode : Prop :=
  ∀ (w : OpWord) (i : Instr), decode w = .ok i → i.hasWord = true ∧ i.wf = true ∧ encode i = some w

/-- `30_encoding.md` R98: which words the decoder rejects, and that a driver's turn (log 18) with a word that names no
operation of the instance is refused. R98 counts operands out of the instance's ranges among the reserved words: that `decode`
leaves those to the operation's own breach is the model's deduction (log 19). The operation words are the spec's own decision
D10 (log 33). -/
def Obligations.ReservedWordsRefused : Prop :=
  (∀ w : OpWord, (∃ e, decode w = .error e) ↔
    (w >>> 28 = 0 ∨ 8 ≤ (w >>> 28).toNat ∨ ((w >>> 28 = 1 ∨ w >>> 28 = 7) ∧ w.extractLsb' 0 28 ≠ 0))) ∧
  ∀ (s : State) (w : OpWord) (rest : List Turn), s.agenda = .driver w :: rest →
    ((∃ e, decode w = .error e) ∨ ∃ i, decode w = .ok i ∧ i.inRange s.cfg = false) → ∃ r, step s = .refused r

/-- `30_encoding.md` R93 to R95: while a run is in progress the word at the sequencer position decodes to the operation
`PHASE` names, and its opcode is the code of `PHASE`, for cursors that fit their fields; at a position whose operands do not
fit there is no word.
The operation words are the spec's own decision D10 (log 33). -/
def Obligations.PositionWordDecodes : Prop :=
  (∀ p : Pos, p.phase ≠ .idle → p.co0 < 2 ^ 14 → p.ci0 < 2 ^ 14 → p.y < 2 ^ 14 → p.x < 2 ^ 14 →
    ∃ w i, p.word = some w ∧ p.instr = some i ∧ decode w = .ok i ∧ w.extractLsb' 28 3 = p.phase.code ∧
      w.extractLsb' 31 1 = 0) ∧
  ∀ (p : Pos) (i : Instr), p.instr = some i → i.wf = false → p.word = none

/-- A step runs the decoded instruction: the engine's turn executes the operation at the sequencer position, the driver's
turn the operation its word decodes to, at the position placed there (log 18); each with the turn taken off the agenda. -/
def Obligations.StepRunsDecoded : Prop :=
  (∀ (s : State) (i : Instr), s.agenda = [] → s.pc.instr = some i → step s = exec i s) ∧
  (∀ (s : State) (i : Instr) (rest : List Turn), s.agenda = .engine :: rest → s.pc.instr = some i →
    step s = exec i { s with agenda := rest }) ∧
  ∀ (s : State) (i : Instr) (w : OpWord) (rest : List Turn), s.agenda = .driver w :: rest → decode w = .ok i →
    step s = exec i { s with agenda := rest, pc := s.pc.placedAt i }

/-! ### Reset -/

/-- `10_state.md` R47, `70_reset_and_hazards.md` R270: the reset event, from any state; that it is a turn of its own is the
model's choice (log 34). The references' handles after it are
log 11's choice and are not stated. The reset values are the spec's own decision D13 (log 27). -/
def Obligations.ResetEventResets : Prop :=
  ∀ (s : State) (rest : List Turn), s.agenda = .reset :: rest →
    ∃ t, step s = .next t ∧ t.start = false ∧ t.done = false ∧ t.pc = ⟨.idle, 0, 0, 0, 0⟩ ∧ t.rowPtr = 0 ∧
      (∀ r x ci, t.lineAt r x ci = none) ∧ (∀ co ci ky kx, t.wbufAt co ci ky kx = none) ∧ (∀ i, t.biasAt i = none) ∧
      (∀ ky kx ci, t.windowAt ky kx ci = none) ∧ (∀ oy ox co, t.accAt oy ox co = none) ∧
      (∀ sp, (t.ref sp).written = false) ∧ t.biasValid = false ∧ t.wbufTag = none ∧ t.rowsPushed = none ∧
      t.windowTag = none ∧ (∀ oy ox, t.accTagAt oy ox = none) ∧ (∀ sp, t.space sp = s.space sp) ∧ t.cfg = s.cfg

/-- `10_state.md` R47: the state after reset, for every configuration. The reset values are the spec's own decision D13
(log 27). The last clause is the model's: R47 says only that reset leaves memory as it is; the canonical form and the memories
of the model's reset state are its choices (logs 9 and 10). -/
def Obligations.ResetStateIsIdle : Prop :=
  ∀ c : Config, (State.resetOf c).start = false ∧ (State.resetOf c).done = false ∧
    (State.resetOf c).pc = ⟨.idle, 0, 0, 0, 0⟩ ∧ (State.resetOf c).rowPtr = 0 ∧ (State.resetOf c).biasValid = false ∧
    (∀ oy ox co, (State.resetOf c).accAt oy ox co = none ∧ (State.resetOf c).accTagAt oy ox = none) ∧
    (State.resetOf c).CursorsInRange ∧ (State.resetOf c).MemoryWf

/-! ### The host -/

/-- `40_control_sequencer.md` R120, host part: with the references written, the buffers large enough and no run in progress,
`START` sets the signal; `duty` is the model's own (log 7).
The start and done protocol is the spec's own decision D12 (logs 5 and 29). -/
def Obligations.StartSetsSignal : Prop :=
  ∀ s : State, (∀ sp, (s.ref sp).written = true) → s.buffersFit = true → s.pc.phase = .idle →
    ∃ t, exec .start s = .next t ∧ t.start = true ∧ t = { s with start := true, duty := .awaiting }

/-- `40_control_sequencer.md` R120, `60_exceptions.md` R243, R244: `START` with an unwritten reference or an undersized buffer
is B6, and otherwise `START` while busy is B9. That a breach is a refusal is the spec's own decision D14 (log 17). -/
def Obligations.StartBreaches : Prop :=
  ∀ s : State,
    (((∃ sp, (s.ref sp).written = false) ∨ s.inMem.size < s.cfg.inBytes ∨ s.wgtMem.size < s.cfg.wgtBytes ∨
        s.biasMem.size < s.cfg.biasBytes ∨ s.outMem.size < s.cfg.outBytes) → exec .start s = .refused .b6Buffer) ∧
    ((∀ sp, (s.ref sp).written = true) → s.buffersFit = true → s.pc.phase ≠ .idle →
      exec .start s = .refused .b9StartBusy)

/-- `40_control_sequencer.md` R120, engine part: the engine accepts a pending `START`, the turn being its own.
The start and done protocol is the spec's own decision D12 (logs 5 and 29). -/
def Obligations.EngineAcceptsStart : Prop :=
  ∀ s : State, s.agenda = [] → s.pc.phase = .idle → s.start = true →
    ∃ t, step s = .next t ∧ t.start = false ∧ t.done = false ∧ t.biasValid = false ∧ t.wbufTag = none ∧
      t.rowsPushed = none ∧ t.windowTag = none ∧ (∀ oy ox, t.accTagAt oy ox = none) ∧
      t.pc = ⟨.loadBias, 0, 0, 0, s.cfg.k - 1⟩ ∧
      t = { s with start := t.start, done := t.done, biasValid := t.biasValid, wbufTag := t.wbufTag, rowsPushed := t.rowsPushed, windowTag := t.windowTag, accTag := t.accTag, pc := t.pc }

/-- `40_control_sequencer.md` R129: in `IDLE` with no pending `START` the engine waits.
The empty agenda gives the turn to the engine (log 4). -/
def Obligations.IdleEngineWaits : Prop :=
  ∀ s : State, s.agenda = [] → s.pc.phase = .idle → s.start = false → step s = .next s

/-- `40_control_sequencer.md` R126: with `DONE` 1 and no `START` waiting for acceptance `WAIT_DONE` completes; it changes no
engine state. That it waits for the acceptance (log 5), what it does while it waits (log 6) and `duty` (log 7) are the
model's. -/
def Obligations.WaitDoneObserves : Prop :=
  ∀ s : State, (s.done = true → s.start = false → ∃ t, exec .waitDone s = .next t ∧ t.duty = .free ∧
    t.done = true ∧ t = { s with duty := t.duty }) ∧
    (s.done = false ∨ s.start = true → exec .waitDone s = .next s)

/-- `40_control_sequencer.md` R126, R127: a host that waits for `DONE` keeps its place and the engine moves, exactly as
it does with no turn listed. -/
def Obligations.WaitingHostLetsEngineMove : Prop :=
  ∀ (s : State) (rest : List Turn), s.agenda = .host .waitDone :: rest → s.done = false →
    (∀ t, step { s with agenda := [] } = .next t → step s = .next { t with agenda := s.agenda }) ∧
    (∀ r, step { s with agenda := [] } = .refused r → step s = .refused r)

/-- `20_memory.md` R75, R80, `70_reset_and_hazards.md` R280 (2): while a run is in progress, and from `START` until `DONE` is
observed, every move of the host that reads or writes a buffer or a reference is refused as B8 (log 7).
The refusal is the spec's own decision D18. -/
def Obligations.HostTouchesNothingWhileBusy : Prop :=
  ∀ (s : State) (m : HostMove) (rest : List Turn), s.agenda = .host m :: rest →
    (s.pc.phase ≠ .idle ∨ s.duty = .awaiting) → m ≠ .start → m ≠ .waitDone → step s = .refused .b8HostAccess

/-- `20_memory.md` R75: with no run outstanding the host's write of one byte lands in that space at that offset, and nothing
else changes but that its turn is over. Visibility is the spec's own decision D17 (log 20). -/
def Obligations.HostWriteLands : Prop :=
  ∀ (s : State) (sp : Space) (a : Nat) (v : I8) (rest : List Turn), s.agenda = .host (.write sp a v) :: rest →
    s.pc.phase = .idle → s.duty ≠ .awaiting → a < (s.space sp).size → (s.space sp).wf →
    ∃ t, step s = .next t ∧ (t.space sp).read a = v ∧ (∀ b, b ≠ a → (t.space sp).read b = (s.space sp).read b) ∧
      (t.space sp).size = (s.space sp).size ∧ (∀ sp', sp' ≠ sp → t.space sp' = s.space sp') ∧
      t = { s with agenda := rest, inMem := t.inMem, wgtMem := t.wgtMem, biasMem := t.biasMem, outMem := t.outMem }

/-- `20_memory.md` R75, R80, `70_reset_and_hazards.md` R271: with no run outstanding the host reads any byte of the input
buffers and any reference, and of `OUT` unless a reset cut the last run short; the read changes nothing but what the host saw
(logs 7, 8 and 35). -/
def Obligations.HostReadsBack : Prop :=
  ∀ (s : State) (sp : Space) (rest : List Turn), s.pc.phase = .idle → s.duty ≠ .awaiting →
    (∀ a, s.agenda = .host (.read sp a) :: rest → (sp = .output → s.duty = .free) → a < (s.space sp).size →
      step s = .next { s with agenda := rest, hostSaw := some (.byte ((s.space sp).read a)) }) ∧
    (∀ a, s.agenda = .host (.read sp a) :: rest → sp = .output → s.duty = .cutShort → step s = .refused .b8HostAccess) ∧
    (s.agenda = .host (.readRef sp) :: rest →
      step s = .next { s with agenda := rest, hostSaw := some (.handle (s.ref sp).handle) })

/-- The model's own: with no run outstanding, a host read or write at an offset past the end of a buffer faults (log 30). -/
def Obligations.HostPastEndFaults : Prop :=
  ∀ (s : State) (sp : Space) (a : Nat) (rest : List Turn), s.pc.phase = .idle → s.duty = .free → (s.space sp).size ≤ a →
    (s.agenda = .host (.read sp a) :: rest → step s = .fault (.noSuchByte sp a)) ∧
    ∀ v, s.agenda = .host (.write sp a v) :: rest → step s = .fault (.noSuchByte sp a)

/-- `70_reset_and_hazards.md` R272, `10_state.md` R34: with no run outstanding the host writes a reference, or provides a
buffer of given bytes, and that reference or buffer alone changes (`duty`: log 7).
What a reference is is the spec's own decision D3 (log 11). -/
def Obligations.HostPreparesRun : Prop :=
  ∀ (s : State) (sp : Space) (rest : List Turn), s.pc.phase = .idle → s.duty ≠ .awaiting →
    (∀ n, s.agenda = .host (.setRef sp n) :: rest → ∃ t, step s = .next t ∧ t.ref sp = ⟨n, true⟩ ∧
      (∀ sp', sp' ≠ sp → t.ref sp' = s.ref sp') ∧
      t = { s with agenda := rest, inRef := t.inRef, outRef := t.outRef, wgtRef := t.wgtRef, biasRef := t.biasRef }) ∧
    ∀ bytes, s.agenda = .host (.provide sp bytes) :: rest → ∃ t, step s = .next t ∧
      (t.space sp).size = bytes.length ∧ (∀ a v, bytes[a]? = some v → (t.space sp).read a = v) ∧
      (∀ sp', sp' ≠ sp → t.space sp' = s.space sp') ∧
      t = { s with agenda := rest, inMem := t.inMem, wgtMem := t.wgtMem, biasMem := t.biasMem, outMem := t.outMem }

/-! ### The micro-operations -/

/-- `40_control_sequencer.md` R121, `20_memory.md` R66: `LOAD_BIAS`.
The byte order is the spec's own decision D2 (log 13). -/
def Obligations.LoadBiasLoadsVector : Prop :=
  ∀ s : State, s.pc.phase = .loadBias → s.cfg.biasBytes ≤ s.biasMem.size →
    ∃ t, exec .loadBias s = .next t ∧
      (∀ i, i < s.cfg.cout → ∃ v, t.biasAt i = some v ∧
        v.toNat = (s.biasMem.read (4 * i)).toNat + 2 ^ 8 * (s.biasMem.read (4 * i + 1)).toNat +
          2 ^ 16 * (s.biasMem.read (4 * i + 2)).toNat + 2 ^ 24 * (s.biasMem.read (4 * i + 3)).toNat) ∧
      t.biasValid = true ∧ t.pc = ⟨.loadWeights, 0, 0, 0, s.cfg.k - 1⟩ ∧
      t = { s with bias := t.bias, biasValid := t.biasValid, pc := t.pc }

/-- `40_control_sequencer.md` R122: `FINISH`.
The start and done protocol is the spec's own decision D12 (logs 5 and 29). -/
def Obligations.FinishReportsDone : Prop :=
  ∀ s : State, s.pc.phase = .finish →
    ∃ t, exec .finish s = .next t ∧ t.done = true ∧ t.pc = ⟨.idle, s.pc.co0, s.pc.ci0, s.pc.y, s.pc.x⟩ ∧
      t = { s with done := t.done, pc := t.pc }

/-- `41_weight_tile_loader.md` R150: `LOAD_WEIGHTS` at its own position with tile origins in range.
`ROW_PTR` 0 is the spec's own decision D6 (log 28), the tags D15 (log 12). -/
def Obligations.LoadWeightsLoadsTile : Prop :=
  ∀ (s : State) (co0 ci0 : Nat), s.pc.phase = .loadWeights → s.pc.co0 = co0 → s.pc.ci0 = ci0 →
    co0 % s.cfg.coTile = 0 → co0 ≤ s.cfg.cout - s.cfg.coTile → ci0 % s.cfg.ciTile = 0 →
    ci0 ≤ s.cfg.cin - s.cfg.ciTile → s.cfg.wgtBytes ≤ s.wgtMem.size →
    ∃ t, exec (.loadWeights co0 ci0) s = .next t ∧
      (∀ co, co < s.cfg.coTile → ∀ ci, ci < s.cfg.ciTile → ∀ ky, ky < s.cfg.k → ∀ kx, kx < s.cfg.k →
        t.wbufAt co ci ky kx =
          some (s.wgtMem.read ((((co0 + co) * s.cfg.cin + (ci0 + ci)) * s.cfg.k + ky) * s.cfg.k + kx))) ∧
      t.wbufTag = some ⟨co0, ci0⟩ ∧ t.rowPtr = 0 ∧ t.rowsPushed = some ⟨ci0, 0⟩ ∧ t.windowTag = none ∧
      t.pc = ⟨.pushRow, co0, ci0, 0, s.cfg.k - 1⟩ ∧
      t = { s with wbuf := t.wbuf, wbufTag := t.wbufTag, rowPtr := t.rowPtr, rowsPushed := t.rowsPushed, windowTag := t.windowTag, pc := t.pc }

/-- `42_line_buffer_manager.md` R160: `PUSH_ROW` at its own position, the rows before it pushed. `ROW_PTR` in range is the
invariant `StepKeepsCursorsInRange`.
The meaning of `ROW_PTR` is the spec's own decision D7 (log 15), the tags D15 (log 12). -/
def Obligations.PushRowFillsSlot : Prop :=
  ∀ (s : State) (y ci0 : Nat), s.pc.phase = .pushRow → s.pc.y = y → s.pc.ci0 = ci0 → y < s.cfg.h →
    s.cfg.CiOrigin ci0 → s.rowsPushed = some ⟨ci0, y⟩ → s.cfg.inBytes ≤ s.inMem.size → s.rowPtr < s.cfg.k →
    ∃ t, exec (.pushRow y ci0) s = .next t ∧
      (∀ x, x < s.cfg.w → ∀ ci, ci < s.cfg.ciTile →
        t.lineAt s.rowPtr x ci = some (s.inMem.read ((y * s.cfg.w + x) * s.cfg.cin + (ci0 + ci)))) ∧
      (∀ r, r < s.cfg.k → r ≠ s.rowPtr → ∀ x ci, t.lineAt r x ci = s.lineAt r x ci) ∧
      t.rowPtr = (s.rowPtr + 1) % s.cfg.k ∧ t.rowsPushed = some ⟨ci0, y + 1⟩ ∧ t.windowTag = none ∧
      (s.cfg.k - 1 ≤ y → t.pc = ⟨.buildWindow, s.pc.co0, ci0, y, s.cfg.k - 1⟩) ∧
      (y < s.cfg.k - 1 → t.pc = ⟨.pushRow, s.pc.co0, ci0, y + 1, s.cfg.k - 1⟩) ∧
      t = { s with lineBuf := t.lineBuf, rowPtr := t.rowPtr, rowsPushed := t.rowsPushed, windowTag := t.windowTag, pc := t.pc }

/-- `43_window_assembler.md` R170: `BUILD_WINDOW` at its own position, row `y` the last one pushed and the elements it reads
holding values. Slot and column are the spec's own decisions D7 and D8 (log 15). -/
def Obligations.BuildWindowCopiesRing : Prop :=
  ∀ (s : State) (y x : Nat), s.pc.phase = .buildWindow → s.pc.y = y → s.pc.x = x → s.cfg.k - 1 ≤ y → y < s.cfg.h →
    s.cfg.k - 1 ≤ x → x < s.cfg.w → s.rowsPushed = some ⟨s.pc.ci0, y + 1⟩ →
    (∀ r, r < s.cfg.k → ∀ q, q < s.cfg.w → ∀ ci, ci < s.cfg.ciTile → (s.lineAt r q ci).isSome = true) →
    ∃ t, exec (.buildWindow y x) s = .next t ∧
      (∀ ky, ky < s.cfg.k → ∀ kx, kx < s.cfg.k → ∀ ci, ci < s.cfg.ciTile →
        t.windowAt ky kx ci = s.lineAt ((s.rowPtr + ky) % s.cfg.k) (x - (s.cfg.k - 1) + kx) ci) ∧
      t.windowTag = some ⟨s.pc.ci0, y, x⟩ ∧ t.pc = ⟨.accumulate, s.pc.co0, s.pc.ci0, y, x⟩ ∧
      t = { s with window := t.window, windowTag := t.windowTag, pc := t.pc }

/-- `44_mac_accumulate_unit.md` R180 to R182: `ACCUMULATE` at its own position, its operands the current ones and holding
values: each lane's sum is the wrapped exact sum, and every other bank keeps its values and tag.
The wrap is the spec's own decision D5 (log 14), one bank per pixel D9, the tags D15 (log 12); that
a standing tag suffices where a lifetime has ended is the model's choice (log 36). -/
def Obligations.AccumulateAddsTaps : Prop :=
  ∀ (s : State) (y x : Nat) (base : Nat → I32) (win : Nat → Nat → Nat → I8) (wgt : Nat → Nat → Nat → Nat → I8),
    s.pc.phase = .accumulate → s.pc.y = y → s.pc.x = x → s.cfg.k - 1 ≤ y → y < s.cfg.h →
    s.cfg.k - 1 ≤ x → x < s.cfg.w → s.windowTag = some ⟨s.pc.ci0, y, x⟩ → s.wbufTag = some ⟨s.pc.co0, s.pc.ci0⟩ →
    (s.pc.ci0 = 0 → s.biasValid = true ∧ ∀ co, co < s.cfg.coTile → s.biasAt (s.pc.co0 + co) = some (base co)) →
    (s.pc.ci0 ≠ 0 → s.accTagAt (y - (s.cfg.k - 1)) (x - (s.cfg.k - 1)) = some ⟨s.pc.co0, s.pc.ci0⟩ ∧
      ∀ co, co < s.cfg.coTile → s.accAt (y - (s.cfg.k - 1)) (x - (s.cfg.k - 1)) co = some (base co)) →
    (∀ ky, ky < s.cfg.k → ∀ kx, kx < s.cfg.k → ∀ ci, ci < s.cfg.ciTile → s.windowAt ky kx ci = some (win ky kx ci)) →
    (∀ co, co < s.cfg.coTile → ∀ ci, ci < s.cfg.ciTile → ∀ ky, ky < s.cfg.k → ∀ kx, kx < s.cfg.k →
      s.wbufAt co ci ky kx = some (wgt co ci ky kx)) →
    ∃ t, exec (.accumulate y x) s = .next t ∧
      (∀ co, co < s.cfg.coTile → t.accAt (y - (s.cfg.k - 1)) (x - (s.cfg.k - 1)) co =
        some (BitVec.ofInt 32 ((base co).toInt + ∑ ky ∈ Finset.range s.cfg.k, ∑ kx ∈ Finset.range s.cfg.k,
          ∑ ci ∈ Finset.range s.cfg.ciTile, (win ky kx ci).toInt * (wgt co ci ky kx).toInt))) ∧
      t.accTagAt (y - (s.cfg.k - 1)) (x - (s.cfg.k - 1)) = some ⟨s.pc.co0, s.pc.ci0 + s.cfg.ciTile⟩ ∧
      (∀ r, r < s.cfg.oh → ∀ q, q < s.cfg.ow → (r ≠ y - (s.cfg.k - 1) ∨ q ≠ x - (s.cfg.k - 1)) →
        t.accTagAt r q = s.accTagAt r q ∧ ∀ co, t.accAt r q co = s.accAt r q co) ∧
      (s.pc.ci0 = s.cfg.cin - s.cfg.ciTile → t.pc = ⟨.requantizeWrite, s.pc.co0, s.pc.ci0, y, x⟩) ∧
      (s.pc.ci0 ≠ s.cfg.cin - s.cfg.ciTile → t.pc = s.pc.advance s.cfg) ∧
      t = { s with acc := t.acc, accTag := t.accTag, pc := t.pc }

/-- `45_output_requantizer.md` R200, R201: `REQUANTIZE_WRITE` at its own position on the last input tile, the bank complete:
each lane's requantized byte lands at its offset, and every other byte of `OUT` is as before.
The tag is the spec's own decision D15 (log 12); that a standing tag suffices for a bank already finalised is the model's
choice (log 36). -/
def Obligations.RequantizeWritesLanes : Prop :=
  ∀ (s : State) (y x : Nat) (acc : Nat → I32), s.pc.phase = .requantizeWrite → s.pc.y = y → s.pc.x = x →
    s.cfg.k - 1 ≤ y → y < s.cfg.h → s.cfg.k - 1 ≤ x → x < s.cfg.w → s.pc.ci0 = s.cfg.cin - s.cfg.ciTile →
    s.accTagAt (y - (s.cfg.k - 1)) (x - (s.cfg.k - 1)) = some ⟨s.pc.co0, s.cfg.cin⟩ →
    (∀ co, co < s.cfg.coTile → s.accAt (y - (s.cfg.k - 1)) (x - (s.cfg.k - 1)) co = some (acc co)) →
    s.cfg.outBytes ≤ s.outMem.size → s.outMem.wf →
    ∃ t, exec (.requantizeWrite y x) s = .next t ∧
      (∀ co, co < s.cfg.coTile →
        (t.outMem.read (s.cfg.outIdx (y - (s.cfg.k - 1)) (x - (s.cfg.k - 1)) (s.pc.co0 + co))).toInt =
          max (-128) (min 127 ((acc co).toInt / 256))) ∧
      (∀ a, (∀ co, co < s.cfg.coTile → a ≠ s.cfg.outIdx (y - (s.cfg.k - 1)) (x - (s.cfg.k - 1)) (s.pc.co0 + co)) →
        t.outMem.read a = s.outMem.read a) ∧
      t.outMem.size = s.outMem.size ∧ t.pc = s.pc.advance s.cfg ∧ t = { s with outMem := t.outMem, pc := t.pc }

/-! ### Breaches -/

/-- `40_control_sequencer.md` R121, R122, `60_exceptions.md` R244: `LOAD_BIAS` with an undersized `BIASMEM` is B6 (log 23), and
otherwise `LOAD_BIAS` or `FINISH` with another `PHASE` is refused by a name of the model's own, in an order of its own
(log 17). -/
def Obligations.OutOfScheduleRefused : Prop :=
  ∀ s : State, (s.biasMem.size < s.cfg.biasBytes → exec .loadBias s = .refused .b6Buffer) ∧
    (s.cfg.biasBytes ≤ s.biasMem.size → s.pc.phase ≠ .loadBias →
      exec .loadBias s = .refused (.outOfSchedule "LOAD_BIAS")) ∧
    (s.pc.phase ≠ .finish → exec .finish s = .refused (.outOfSchedule "FINISH"))

/-- `41_weight_tile_loader.md` R150, `60_exceptions.md` R243: `LOAD_WEIGHTS` outside its preconditions is B1.
That a breach is a refusal is the spec's own decision D14 (log 17). -/
def Obligations.LoadWeightsBreach : Prop :=
  ∀ (s : State) (co0 ci0 : Nat),
    (s.pc.phase ≠ .loadWeights ∨ co0 ≠ s.pc.co0 ∨ ci0 ≠ s.pc.ci0 ∨ co0 % s.cfg.coTile ≠ 0 ∨
      s.cfg.cout < co0 + s.cfg.coTile ∨ ci0 % s.cfg.ciTile ≠ 0 ∨ s.cfg.cin < ci0 + s.cfg.ciTile) →
    exec (.loadWeights co0 ci0) s = .refused .b1TileOrigin

/-- `42_line_buffer_manager.md` R160, `60_exceptions.md` R243: `PUSH_ROW` outside its preconditions is B2.
That a breach is a refusal is the spec's own decision D14 (log 17). -/
def Obligations.PushRowBreach : Prop :=
  ∀ (s : State) (y ci0 : Nat),
    (s.pc.phase ≠ .pushRow ∨ y ≠ s.pc.y ∨ ci0 ≠ s.pc.ci0 ∨ s.cfg.h ≤ y ∨ ci0 % s.cfg.ciTile ≠ 0 ∨
      s.cfg.cin < ci0 + s.cfg.ciTile ∨ s.rowsPushed ≠ some ⟨ci0, y⟩) →
    exec (.pushRow y ci0) s = .refused .b2RowOrder

/-- `43_window_assembler.md` R170, `42_line_buffer_manager.md` R162, `60_exceptions.md` R243: `BUILD_WINDOW` for no window, or
with row `y` not the last one pushed, is B3; with that in order, an element without a value is B10.
That a breach is a refusal is the spec's own decision D14 (log 17). -/
def Obligations.BuildWindowBreaches : Prop :=
  ∀ (s : State) (y x : Nat),
    ((s.pc.phase ≠ .buildWindow ∨ y ≠ s.pc.y ∨ x ≠ s.pc.x ∨ y + 1 < s.cfg.k ∨ s.cfg.h ≤ y ∨ x + 1 < s.cfg.k ∨
      s.cfg.w ≤ x ∨ s.rowsPushed ≠ some ⟨s.pc.ci0, y + 1⟩) → exec (.buildWindow y x) s = .refused .b3NoWindow) ∧
    (s.pc.phase = .buildWindow → y = s.pc.y → x = s.pc.x → s.cfg.k ≤ y + 1 → y < s.cfg.h → s.cfg.k ≤ x + 1 →
      x < s.cfg.w → s.rowsPushed = some ⟨s.pc.ci0, y + 1⟩ →
      (∃ ky kx ci, ky < s.cfg.k ∧ kx < s.cfg.k ∧ ci < s.cfg.ciTile ∧
        s.lineAt ((s.rowPtr + ky) % s.cfg.k) (x - (s.cfg.k - 1) + kx) ci = none) →
      exec (.buildWindow y x) s = .refused .b10NoValue)

/-- `44_mac_accumulate_unit.md` R180, `60_exceptions.md` R243: `ACCUMULATE` with an operand that is not the current one is B4.
That a breach is a refusal is the spec's own decision D14 (log 17). -/
def Obligations.AccumulateBreach : Prop :=
  ∀ (s : State) (y x : Nat),
    (s.pc.phase ≠ .accumulate ∨ y ≠ s.pc.y ∨ x ≠ s.pc.x ∨ y + 1 < s.cfg.k ∨ s.cfg.h ≤ y ∨ x + 1 < s.cfg.k ∨
      s.cfg.w ≤ x ∨ s.windowTag ≠ some ⟨s.pc.ci0, y, x⟩ ∨ s.wbufTag ≠ some ⟨s.pc.co0, s.pc.ci0⟩ ∨
      (s.pc.ci0 = 0 ∧ s.biasValid = false) ∨
      (s.pc.ci0 ≠ 0 ∧ s.accTagAt (y - (s.cfg.k - 1)) (x - (s.cfg.k - 1)) ≠ some ⟨s.pc.co0, s.pc.ci0⟩)) →
    exec (.accumulate y x) s = .refused .b4StaleOperand

/-- `45_output_requantizer.md` R201, `60_exceptions.md` R243: `REQUANTIZE_WRITE` before the last input tile or with channels
missing is B5. That a breach is a refusal is the spec's own decision D14 (log 17). -/
def Obligations.RequantizeWriteBreach : Prop :=
  ∀ (s : State) (y x : Nat),
    (s.pc.phase ≠ .requantizeWrite ∨ y ≠ s.pc.y ∨ x ≠ s.pc.x ∨ y + 1 < s.cfg.k ∨ s.cfg.h ≤ y ∨ x + 1 < s.cfg.k ∨
      s.cfg.w ≤ x ∨ s.pc.ci0 ≠ s.cfg.cin - s.cfg.ciTile ∨
      s.accTagAt (y - (s.cfg.k - 1)) (x - (s.cfg.k - 1)) ≠ some ⟨s.pc.co0, s.cfg.cin⟩) →
    exec (.requantizeWrite y x) s = .refused .b5NotFinal

/-- `60_exceptions.md` R240: no operation raises anything. -/
def Obligations.OperationsNeverFault : Prop :=
  ∀ (i : Instr) (s : State) (f : Fault), exec i s ≠ .fault f

/-! ### Whole-machine rules -/

/-- `40_control_sequencer.md` R123: a micro-operation that completes moves the sequencer as the next-state function says. -/
def Obligations.PositionFollowsSchedule : Prop :=
  ∀ (i : Instr) (s t : State), i.hasWord = true → exec i s = .next t → t.pc = s.pc.next s.cfg ∧ s.pc.instr = some i

/-- `40_control_sequencer.md` R129: the next position depends on the cursors and the configuration only, whatever the
memories and buffers hold. -/
def Obligations.NoBranchOnData : Prop :=
  ∀ s s' t t' : State, s.cfg = s'.cfg → s.pc = s'.pc → s.start = s'.start → s.agenda = [] → s'.agenda = [] →
    step s = .next t → step s' = .next t' → t.pc = t'.pc ∧ t.start = t'.start

/-- `20_memory.md` R39, R44, R68, `10_state.md` R34, R38: no operation writes the three input buffers, a reference or the
configuration, and only `REQUANTIZE_WRITE` writes `OUT`.
Four disjoint spaces are the spec's own decision D3 (log 16). -/
def Obligations.OperationsKeepCallerState : Prop :=
  ∀ (i : Instr) (s t : State), exec i s = .next t →
    (∀ sp, sp ≠ .output → t.space sp = s.space sp) ∧ (∀ sp, t.ref sp = s.ref sp) ∧ t.cfg = s.cfg ∧
      t.agenda = s.agenda ∧ t.outMem.size = s.outMem.size ∧ ((∀ y x, i ≠ .requantizeWrite y x) → t.outMem = s.outMem)

/-- `20_memory.md` R39, R69, `45_output_requantizer.md` R201: the engine never reads `OUT`: with other contents there, an
operation completes or stops just the same, changes everything else in the same way and writes the same bytes.
Four disjoint spaces are the spec's own decision D3 (log 16). -/
def Obligations.OutputNeverRead : Prop :=
  ∀ (i : Instr) (s : State) (m : Memory), m.size = s.outMem.size → m.wf → s.outMem.wf →
    (∀ t, exec i s = .next t → ∃ t', exec i { s with outMem := m } = .next t' ∧ t = { t' with outMem := t.outMem } ∧
      ∀ a, (t.outMem.read a = s.outMem.read a ∧ t'.outMem.read a = m.read a) ∨ t.outMem.read a = t'.outMem.read a) ∧
    ∀ r, exec i s = .refused r → exec i { s with outMem := m } = .refused r

/-- The canonical form of the four memories, the model's own (log 9), is kept by every step, of any agent; the cursors are in
range by `StepKeepsCursorsInRange`. -/
def Obligations.StepKeepsMemoryWf : Prop :=
  ∀ s t : State, s.CursorsInRange → s.MemoryWf → step s = .next t → t.MemoryWf

/-- `10_state.md` R23 to R27: every step, of any agent, keeps every cursor in its range; while a run is in progress `X` is at
least `K-1`. Natural numbers with ranges follow the spec's own decision D19 (log 3). -/
def Obligations.StepKeepsCursorsInRange : Prop :=
  ∀ s t : State, s.CursorsInRange → s.ColumnVisited → step s = .next t → t.CursorsInRange ∧ t.ColumnVisited

/-- `10_state.md` R38, `20_memory.md` R70: no step, of any agent, changes the configuration. -/
def Obligations.StepKeepsConfiguration : Prop :=
  ∀ s t : State, step s = .next t → t.cfg = s.cfg

/-! ### Arithmetic -/

/-- `44_mac_accumulate_unit.md` R181: every product is that of the signed values, lies in `[-16256, 16384]`, both bounds
reached, and is exact in 16 bits and after the sign extension to 32. The 16-bit width is the spec's own decision D25. -/
def Obligations.ProductsFitSixteenBits : Prop :=
  (∀ a b : I8, product a b = a.toInt * b.toInt ∧ -16256 ≤ product a b ∧ product a b ≤ 16384 ∧
    (BitVec.signExtend 16 a * BitVec.signExtend 16 b).toInt = product a b ∧
    (BitVec.signExtend 32 (BitVec.signExtend 16 a * BitVec.signExtend 16 b)).toInt = product a b) ∧
  product (-128) (-128) = 16384 ∧ product (-128) 127 = -16256

/-- `44_mac_accumulate_unit.md` R183, `46_reference_model.md` R223: adding the products one at a time into a 32-bit register,
in any order, gives the wrapped exact sum. The wrap is the spec's own decision D5 (log 14). -/
def Obligations.AccumulationOrderFree : Prop :=
  ∀ (base : I32) (l l' : List Int), l.Perm l' →
    l.foldl (fun (acc : I32) z => wrap32 (acc.toInt + z)) base = wrap32 (base.toInt + l'.sum)

/-- `44_mac_accumulate_unit.md` R182: with `|bias| + CIN*K*K*16384 ≤ 2^31 - 1` the accumulated value is the exact sum.
The wrap is the spec's own decision D5 (log 14), the bound its own derivation. -/
def Obligations.NoWrapUnderBound : Prop :=
  ∀ (s : State) (co oy ox : Nat),
    |(s.biasWord co).toInt| + (s.cfg.cin * s.cfg.k * s.cfg.k * 16384 : Int) ≤ 2 ^ 31 - 1 →
    (s.partialAcc co oy ox s.cfg.cin).toInt = (s.biasWord co).toInt +
      ∑ ci ∈ Finset.range s.cfg.cin, ∑ ky ∈ Finset.range s.cfg.k, ∑ kx ∈ Finset.range s.cfg.k,
        (s.inputAt (oy + ky) (ox + kx) ci).toInt * (s.weightAt co ci ky kx).toInt

/-- `45_output_requantizer.md` R200: the shift `q` is the floor of the quotient by 256 and lies in `[-8388608, 8388607]`;
`requant` is `q` saturated to `[-128, 127]`. -/
def Obligations.RequantSaturatesFloor : Prop :=
  ∀ a : I32, ∃ q : Int, (256 * q ≤ a.toInt ∧ a.toInt < 256 * q + 256) ∧ (-8388608 ≤ q ∧ q ≤ 8388607) ∧ sar8 a = q ∧
    (127 < q → (requant a).toInt = 127) ∧ (q < -128 → (requant a).toInt = -128) ∧
    (-128 ≤ q → q ≤ 127 → (requant a).toInt = q)

/-- `45_output_requantizer.md` R202: the thresholds of the shift and of `requant`, and the two extreme accumulators.
The table is the spec's own derivation from R200. -/
def Obligations.RequantThresholds : Prop :=
  (∀ a : I32, (32768 ≤ a.toInt → 128 ≤ sar8 a ∧ (requant a).toInt = 127) ∧
    (a.toInt ≤ -32769 → sar8 a ≤ -129 ∧ (requant a).toInt = -128) ∧
    ∀ q : Int, -128 ≤ q → q ≤ 127 → 256 * q ≤ a.toInt → a.toInt ≤ 256 * q + 255 → sar8 a = q ∧ (requant a).toInt = q) ∧
  sar8 0x7FFFFFFF = 8388607 ∧ sar8 0x80000000 = -8388608

/-- `45_output_requantizer.md` R203: `requant` is the clamped shift, monotonic, and constant on each block of 256 values. -/
def Obligations.RequantMonotone : Prop :=
  (∀ a : I32, (requant a).toInt = max (-128) (min 127 (sar8 a))) ∧
  (∀ a b : I32, a.toInt ≤ b.toInt → (requant a).toInt ≤ (requant b).toInt) ∧
  ∀ a b : I32, (∃ q : Int, 256 * q ≤ a.toInt ∧ a.toInt ≤ 256 * q + 255 ∧ 256 * q ≤ b.toInt ∧ b.toInt ≤ 256 * q + 255) →
    requant a = requant b

/-- `45_output_requantizer.md` R204: the shift is arithmetic: the floor of the quotient by 256, and `a[31:8]` read as
signed. -/
def Obligations.ShiftIsArithmetic : Prop :=
  (∀ a : I32, 256 * sar8 a ≤ a.toInt ∧ a.toInt < 256 * sar8 a + 256 ∧ sar8 a = (a.extractLsb' 8 24).toInt ∧
    sar8 a = (a.sshiftRight 8).toInt) ∧
  sar8 0xFFFFFFFF = -1 ∧ (requant 0xFFFFFFFF).toInt = -1

/-! ### The run -/

/-- `40_control_sequencer.md` R123, R124, R128: from the first position the next-state function issues exactly the stream
`RUN`, in the stated number of micro-operations, and ends in `IDLE`.
The stream is the spec's own derivation from R123, its grain decision D10 (log 21). -/
def Obligations.ScheduleIssuesRun : Prop :=
  ∀ c : Config, (issueFrom c (runLength c) (runStart c)).1 = runOps c ∧ (runOps c).length = runLength c ∧
    (issueFrom c (runLength c) (runStart c)).2.phase = .idle

/-- `46_reference_model.md` R217, `40_control_sequencer.md` R125: the reference's loops compute the big step's value.
Wrap and orientation are the spec's own decisions D5 and D8 (logs 14 and 15). -/
def Obligations.ReferenceIsBigStep : Prop :=
  ∀ (s : State) (co oy ox : Nat), s.refAcc co oy ox = s.partialAcc co oy ox s.cfg.cin ∧
    s.refOut co oy ox = s.bigStepOut co oy ox

/-- `40_control_sequencer.md` R120, R124: the acceptance of a `START` whose buffers fit opens the run's invariant; the empty
agenda gives the turn to the engine (log 4). -/
def Obligations.AcceptanceOpensRun : Prop :=
  ∀ s : State, s.agenda = [] → s.pc.phase = .idle → s.start = true → s.buffersFit = true → s.outMem.wf →
    ∃ t, step s = .next t ∧ t.RunInv ∧ t.pc = runStart s.cfg

/-- `10_state.md` R46, `40_control_sequencer.md` R124, R128: in the fixed schedule every step completes, finds every tag valid
and every element it reads holding its value, and keeps the run's invariant until `FINISH`; the empty agenda gives the turn
to the engine (log 4). Wrap, orientation and tags are the spec's own decisions D5, D7, D8 and D15 (logs 12, 14, 15). -/
def Obligations.StepKeepsRunInv : Prop :=
  ∀ s : State, s.agenda = [] → s.RunInv → s.pc.phase ≠ .finish → ∃ t, step s = .next t ∧ t.RunInv ∧ t.agenda = []

/-- `46_reference_model.md` R219, R221, `40_control_sequencer.md` R125, R128: an accepted run ends after exactly its number of
micro-operations with `DONE` 1 and `OUT` equal to the reference, element by element, the inputs unchanged; the empty agenda
gives every turn to the engine (log 4).
Wrap, orientation and byte order are the spec's own decisions D5, D8 and D2 (logs 13 to 15). -/
def Obligations.RunEqualsReference : Prop :=
  ∀ s : State, s.agenda = [] → s.pc.phase = .idle → s.start = true → s.buffersFit = true → s.outMem.wf →
    ∃ t, core.run (runLength s.cfg + 1) s = .next t ∧ t.pc.phase = .idle ∧ t.done = true ∧
      (∀ sp, sp ≠ .output → t.space sp = s.space sp) ∧
      ∀ oy, oy < s.cfg.oh → ∀ ox, ox < s.cfg.ow → ∀ co, co < s.cfg.cout → t.outputAt oy ox co = s.refOut co oy ox

/-- `46_reference_model.md` R218, R219: after an accepted run the harness reports success with no mismatch, whatever `N_REPORT`.
It rests on what `RunEqualsReference` rests on (logs 4, 13 to 15). -/
def Obligations.RunPassesHarness : Prop :=
  ∀ (s : State) (nReport : Nat), s.agenda = [] → s.pc.phase = .idle → s.start = true → s.buffersFit = true → s.outMem.wf →
    ∃ t, core.run (runLength s.cfg + 1) s = .next t ∧ t.harness nReport = (true, 0, [])

/-- `40_control_sequencer.md` R127, `70_reset_and_hazards.md` R272, `46_reference_model.md` R218, R219: one whole host call, from
any state with no run outstanding: buffers of the tensors' sizes, references, `START`, the run, `WAIT_DONE`. It ends with the
host owning `OUT`, the harness reporting success, and no turn left (logs 4, 5 and 7).
It rests further on what `RunEqualsReference` rests on (logs 4, 13 to 15). -/
def Obligations.HostCallDelivers : Prop :=
  ∀ (s : State) (bytes : Space → List I8) (handle : Space → Nat) (nReport : Nat), s.agenda = callTurns bytes handle →
    s.pc.phase = .idle → s.duty ≠ .awaiting → (bytes .input).length = s.cfg.inBytes →
    (bytes .weights).length = s.cfg.wgtBytes → (bytes .biases).length = s.cfg.biasBytes →
    (bytes .output).length = s.cfg.outBytes →
    ∃ t, core.run (runLength s.cfg + 11) s = .next t ∧ t.agenda = [] ∧ t.done = true ∧ t.hostMayReadOut = true ∧
      (∀ sp, sp ≠ .output → ∀ a v, (bytes sp)[a]? = some v → (t.space sp).read a = v) ∧
      t.harness nReport = (true, 0, [])

/-- `46_reference_model.md` R222: two engines that differ in their tile sizes only, and in whatever their buffers held, write
the same output. The empty agenda gives every turn to the engine (log 4); wrap and orientation: logs 14 and 15. -/
def Obligations.OutputIndependentOfTiles : Prop :=
  ∀ s s' : State, s.agenda = [] → s'.agenda = [] → s.pc.phase = .idle → s'.pc.phase = .idle → s.start = true →
    s'.start = true → s.buffersFit = true → s'.buffersFit = true → s.outMem.wf → s'.outMem.wf → s.inMem = s'.inMem → s.wgtMem = s'.wgtMem →
    s.biasMem = s'.biasMem →
    { s.cfg.toDims with ciTile := s'.cfg.ciTile, coTile := s'.cfg.coTile } = s'.cfg.toDims →
    ∃ t t', core.run (runLength s.cfg + 1) s = .next t ∧ core.run (runLength s'.cfg + 1) s' = .next t' ∧
      ∀ oy, oy < s.cfg.oh → ∀ ox, ox < s.cfg.ow → ∀ co, co < s.cfg.cout → t.outputAt oy ox co = t'.outputAt oy ox co
end

