-- ==== Sys2Proof/Laws/Arith.lean ====
section
/-! SUPPORT. `wrap_32` and `requant` as integer functions. -/

namespace Sys2Proof.Machine

/-- Wrapping an intermediate sum does not change the wrapped result (`44_mac_accumulate_unit.md` R183). -/
theorem wrap32_add_wrap32 (a b : Int) : wrap32 ((wrap32 a).toInt + b) = wrap32 (a + b) := by
  simp only [wrap32, BitVec.toInt_ofInt]
  apply BitVec.eq_of_toInt_eq
  simp only [BitVec.toInt_ofInt, Int.bmod_add_bmod]

theorem wrap32_toInt (a : I32) : wrap32 a.toInt = a := BitVec.ofInt_toInt

/-- `requant` as an integer function (`45_output_requantizer.md` R200). -/
theorem requant_toInt (a : I32) : (requant a).toInt = max (-128) (min 127 (a.toInt / 256)) := by
  have h1 : clamp (sar8 a) (-128) 127 = max (-128) (min 127 (a.toInt / 256)) := by
    unfold clamp sar8; split <;> (try split) <;> omega
  rw [requant, BitVec.toInt_ofInt, Int.bmod_def, ← h1]
  have : -128 ≤ clamp (sar8 a) (-128) 127 ∧ clamp (sar8 a) (-128) 127 ≤ 127 := by omega
  omega

end Sys2Proof.Machine
end

