-- ==== Sys2Proof/Laws/Config.lean ====
section
/-! SUPPORT. Arithmetic of a valid configuration: bounds of coordinates, tiles and offsets. -/

namespace Sys2Proof

theorem Config.k_pos (c : Config) : 1 ≤ c.k := c.valid.1
theorem Config.k_le_h (c : Config) : c.k ≤ c.h := c.valid.2.1
theorem Config.k_le_w (c : Config) : c.k ≤ c.w := c.valid.2.2.1
theorem Config.ciTile_pos (c : Config) : 1 ≤ c.ciTile := c.valid.2.2.2.1
theorem Config.coTile_pos (c : Config) : 1 ≤ c.coTile := c.valid.2.2.2.2.1
theorem Config.cin_pos (c : Config) : 1 ≤ c.cin := c.valid.2.2.2.2.2.1
theorem Config.cout_pos (c : Config) : 1 ≤ c.cout := c.valid.2.2.2.2.2.2.1
theorem Config.ciTile_dvd (c : Config) : c.ciTile ∣ c.cin := Nat.dvd_of_mod_eq_zero c.valid.2.2.2.2.2.2.2.1
theorem Config.coTile_dvd (c : Config) : c.coTile ∣ c.cout := Nat.dvd_of_mod_eq_zero c.valid.2.2.2.2.2.2.2.2
theorem Config.ciTile_le (c : Config) : c.ciTile ≤ c.cin := Nat.le_of_dvd c.cin_pos c.ciTile_dvd
theorem Config.coTile_le (c : Config) : c.coTile ≤ c.cout := Nat.le_of_dvd c.cout_pos c.coTile_dvd

theorem Config.oh_eq (c : Config) : c.oh = c.h - (c.k - 1) := by
  have := c.k_pos; have := c.k_le_h; unfold oh; omega

theorem Config.ow_eq (c : Config) : c.ow = c.w - (c.k - 1) := by
  have := c.k_pos; have := c.k_le_w; unfold ow; omega

theorem Config.ow_pos (c : Config) : 1 ≤ c.ow := by unfold ow; omega

theorem Config.outCoord_lt_oh (c : Config) {y : Nat} (h : y < c.h) : c.outCoord y < c.oh := by
  have := c.k_pos; have := c.k_le_h; unfold outCoord; rw [c.oh_eq]; omega

theorem Config.outCoord_lt_ow (c : Config) {x : Nat} (h : x < c.w) : c.outCoord x < c.ow := by
  have := c.k_pos; have := c.k_le_w; unfold outCoord; rw [c.ow_eq]; omega

/-- Tile origins below the last one have a next tile. -/
theorem tile_step {tile bound o : Nat} (hd : tile ∣ bound) (ho : o % tile = 0)
    (h : o < bound - tile) : (o + tile) % tile = 0 ∧ o + tile ≤ bound - tile := by
  refine ⟨by simp [ho], ?_⟩
  obtain ⟨m, rfl⟩ := Nat.dvd_of_mod_eq_zero ho
  obtain ⟨n, rfl⟩ := hd
  have h1 : tile * (m + 1) < tile * n := by rw [Nat.mul_succ]; omega
  have h2 : m + 1 < n := Nat.lt_of_mul_lt_mul_left h1
  have h3 : tile * (m + 2) ≤ tile * n := Nat.mul_le_mul_left _ h2
  rw [show tile * (m + 2) = tile * m + tile + tile by ring] at h3
  omega

theorem Config.coOrigin_zero (c : Config) : c.CoOrigin 0 := ⟨Nat.zero_mod _, Nat.zero_le _⟩

theorem Config.ciOrigin_zero (c : Config) : c.CiOrigin 0 := ⟨Nat.zero_mod _, Nat.zero_le _⟩

theorem Config.coOrigin_step (c : Config) {o : Nat} (h : c.CoOrigin o) (hl : o < c.cout - c.coTile) :
    c.CoOrigin (o + c.coTile) := tile_step c.coTile_dvd h.1 hl

theorem Config.ciOrigin_step (c : Config) {o : Nat} (h : c.CiOrigin o) (hl : o < c.cin - c.ciTile) :
    c.CiOrigin (o + c.ciTile) := tile_step c.ciTile_dvd h.1 hl

/-- A row-major offset determines its row and column. -/
theorem pixel_injective {w a b a' b' : Nat} (hb : b < w) (hb' : b' < w) (h : a * w + b = a' * w + b') :
    a = a' ∧ b = b' := by
  have hw : 0 < w := by omega
  have h1 := congrArg (· / w) h
  have h2 := congrArg (· % w) h
  simp only [Nat.mul_comm _ w, Nat.mul_add_div hw, Nat.div_eq_of_lt hb, Nat.div_eq_of_lt hb', Nat.mul_add_mod,
    Nat.mod_eq_of_lt hb, Nat.mod_eq_of_lt hb', Nat.add_zero] at h1 h2
  exact ⟨h1, h2⟩

/-- A row-major offset is inside the tensor. -/
theorem pixel_lt {h w a b : Nat} (ha : a < h) (hb : b < w) : a * w + b < h * w := by
  have : (a + 1) * w ≤ h * w := Nat.mul_le_mul_right _ ha
  rw [Nat.succ_mul] at this
  omega

theorem Config.outIdx_lt (c : Config) {oy ox co : Nat} (hy : oy < c.oh) (hx : ox < c.ow) (hc : co < c.cout) :
    c.outIdx oy ox co < c.outBytes := pixel_lt (pixel_lt hy hx) hc

/-- Different output elements have different offsets (`20_memory.md` R64). -/
theorem Config.outIdx_injective (c : Config) {oy ox co oy' ox' co' : Nat} (hx : ox < c.ow) (hc : co < c.cout)
    (hx' : ox' < c.ow) (hc' : co' < c.cout) (h : c.outIdx oy ox co = c.outIdx oy' ox' co') :
    oy = oy' ∧ ox = ox' ∧ co = co' := by
  obtain ⟨h1, rfl⟩ := pixel_injective hc hc' h
  obtain ⟨rfl, rfl⟩ := pixel_injective hx hx' h1
  exact ⟨rfl, rfl, rfl⟩

end Sys2Proof
end

