-- ==== Sys2Proof/Laws/Decode.lean ====
section
/-! SUPPORT. Packing and decoding of operation words. -/

namespace Sys2Proof

theorem packWord_toNat {op a b : Nat} (ho : op < 16) (ha : a < 2 ^ 14) (hb : b < 2 ^ 14) :
    (packWord op a b).toNat = op * 2 ^ 28 + a * 2 ^ 14 + b := by
  simp only [packWord, BitVec.toNat_ofNat]; omega

/-- Fields that fit are read back. -/
theorem decode_packWord {op a b : Nat} (ho : op < 16) (ha : a < 2 ^ 14) (hb : b < 2 ^ 14) :
    decode (packWord op a b) = decodeFields op a b := by
  have h := packWord_toNat ho ha hb
  unfold decode
  congr 1
  · unfold wordOp; omega
  · unfold wordA; omega
  · unfold wordB; omega

/-- Which operations have a word, and which. -/
theorem encode_eq_some {i : Instr} {w : OpWord} : encode i = some w ↔ i.wf = true ∧ fieldWord i = some w := by
  unfold encode
  split <;> simp_all

/-- The fields of a word make the word. -/
theorem packWord_fields (w : OpWord) : packWord (wordOp w) (wordA w) (wordB w) = w := by
  have hw := w.isLt
  apply BitVec.eq_of_toNat_eq
  simp only [packWord, BitVec.toNat_ofNat, wordOp, wordA, wordB]; omega

theorem wordA_lt (w : OpWord) : wordA w < 2 ^ 14 := by unfold wordA; omega

theorem wordB_lt (w : OpWord) : wordB w < 2 ^ 14 := by unfold wordB; omega

end Sys2Proof
end

