-- ==== Sys2Proof/Laws/State.lean ====
section
/-! SUPPORT. One lemma per field per update of the state, true by definition. -/

namespace Sys2Proof.Machine

/-! ### started -/

@[simp] theorem State.started_cfg (s : State) : s.started.cfg = s.cfg := rfl
@[simp] theorem State.started_start (s : State) : s.started.start = true := rfl
@[simp] theorem State.started_done (s : State) : s.started.done = s.done := rfl
@[simp] theorem State.started_pc (s : State) : s.started.pc = s.pc := rfl
@[simp] theorem State.started_rowPtr (s : State) : s.started.rowPtr = s.rowPtr := rfl
@[simp] theorem State.started_lineBuf (s : State) : s.started.lineBuf = s.lineBuf := rfl
@[simp] theorem State.started_wbuf (s : State) : s.started.wbuf = s.wbuf := rfl
@[simp] theorem State.started_bias (s : State) : s.started.bias = s.bias := rfl
@[simp] theorem State.started_window (s : State) : s.started.window = s.window := rfl
@[simp] theorem State.started_acc (s : State) : s.started.acc = s.acc := rfl
@[simp] theorem State.started_inRef (s : State) : s.started.inRef = s.inRef := rfl
@[simp] theorem State.started_outRef (s : State) : s.started.outRef = s.outRef := rfl
@[simp] theorem State.started_wgtRef (s : State) : s.started.wgtRef = s.wgtRef := rfl
@[simp] theorem State.started_biasRef (s : State) : s.started.biasRef = s.biasRef := rfl
@[simp] theorem State.started_biasValid (s : State) : s.started.biasValid = s.biasValid := rfl
@[simp] theorem State.started_wbufTag (s : State) : s.started.wbufTag = s.wbufTag := rfl
@[simp] theorem State.started_rowsPushed (s : State) : s.started.rowsPushed = s.rowsPushed := rfl
@[simp] theorem State.started_windowTag (s : State) : s.started.windowTag = s.windowTag := rfl
@[simp] theorem State.started_accTag (s : State) : s.started.accTag = s.accTag := rfl
@[simp] theorem State.started_inMem (s : State) : s.started.inMem = s.inMem := rfl
@[simp] theorem State.started_wgtMem (s : State) : s.started.wgtMem = s.wgtMem := rfl
@[simp] theorem State.started_biasMem (s : State) : s.started.biasMem = s.biasMem := rfl
@[simp] theorem State.started_outMem (s : State) : s.started.outMem = s.outMem := rfl
@[simp] theorem State.started_duty (s : State) : s.started.duty = .awaiting := rfl
@[simp] theorem State.started_hostSaw (s : State) : s.started.hostSaw = s.hostSaw := rfl
@[simp] theorem State.started_agenda (s : State) : s.started.agenda = s.agenda := rfl

/-! ### accepted -/

@[simp] theorem State.accepted_cfg (s : State) : s.accepted.cfg = s.cfg := rfl
@[simp] theorem State.accepted_start (s : State) : s.accepted.start = false := rfl
@[simp] theorem State.accepted_done (s : State) : s.accepted.done = false := rfl
@[simp] theorem State.accepted_pc (s : State) : s.accepted.pc = ⟨.loadBias, 0, 0, 0, s.cfg.k - 1⟩ := rfl
@[simp] theorem State.accepted_rowPtr (s : State) : s.accepted.rowPtr = s.rowPtr := rfl
@[simp] theorem State.accepted_lineBuf (s : State) : s.accepted.lineBuf = s.lineBuf := rfl
@[simp] theorem State.accepted_wbuf (s : State) : s.accepted.wbuf = s.wbuf := rfl
@[simp] theorem State.accepted_bias (s : State) : s.accepted.bias = s.bias := rfl
@[simp] theorem State.accepted_window (s : State) : s.accepted.window = s.window := rfl
@[simp] theorem State.accepted_acc (s : State) : s.accepted.acc = s.acc := rfl
@[simp] theorem State.accepted_inRef (s : State) : s.accepted.inRef = s.inRef := rfl
@[simp] theorem State.accepted_outRef (s : State) : s.accepted.outRef = s.outRef := rfl
@[simp] theorem State.accepted_wgtRef (s : State) : s.accepted.wgtRef = s.wgtRef := rfl
@[simp] theorem State.accepted_biasRef (s : State) : s.accepted.biasRef = s.biasRef := rfl
@[simp] theorem State.accepted_biasValid (s : State) : s.accepted.biasValid = false := rfl
@[simp] theorem State.accepted_wbufTag (s : State) : s.accepted.wbufTag = none := rfl
@[simp] theorem State.accepted_rowsPushed (s : State) : s.accepted.rowsPushed = none := rfl
@[simp] theorem State.accepted_windowTag (s : State) : s.accepted.windowTag = none := rfl
@[simp] theorem State.accepted_accTag (s : State) : s.accepted.accTag = [] := rfl
@[simp] theorem State.accepted_inMem (s : State) : s.accepted.inMem = s.inMem := rfl
@[simp] theorem State.accepted_wgtMem (s : State) : s.accepted.wgtMem = s.wgtMem := rfl
@[simp] theorem State.accepted_biasMem (s : State) : s.accepted.biasMem = s.biasMem := rfl
@[simp] theorem State.accepted_outMem (s : State) : s.accepted.outMem = s.outMem := rfl
@[simp] theorem State.accepted_duty (s : State) : s.accepted.duty = s.duty := rfl
@[simp] theorem State.accepted_hostSaw (s : State) : s.accepted.hostSaw = s.hostSaw := rfl
@[simp] theorem State.accepted_agenda (s : State) : s.accepted.agenda = s.agenda := rfl

/-! ### biasLoaded -/

@[simp] theorem State.biasLoaded_cfg (s : State) : s.biasLoaded.cfg = s.cfg := rfl
@[simp] theorem State.biasLoaded_start (s : State) : s.biasLoaded.start = s.start := rfl
@[simp] theorem State.biasLoaded_done (s : State) : s.biasLoaded.done = s.done := rfl
@[simp] theorem State.biasLoaded_pc (s : State) : s.biasLoaded.pc = ⟨.loadWeights, 0, 0, 0, s.cfg.k - 1⟩ := rfl
@[simp] theorem State.biasLoaded_rowPtr (s : State) : s.biasLoaded.rowPtr = s.rowPtr := rfl
@[simp] theorem State.biasLoaded_lineBuf (s : State) : s.biasLoaded.lineBuf = s.lineBuf := rfl
@[simp] theorem State.biasLoaded_wbuf (s : State) : s.biasLoaded.wbuf = s.wbuf := rfl
@[simp] theorem State.biasLoaded_bias (s : State) : s.biasLoaded.bias = tab s.cfg.cout fun i => s.biasWord i := rfl
@[simp] theorem State.biasLoaded_window (s : State) : s.biasLoaded.window = s.window := rfl
@[simp] theorem State.biasLoaded_acc (s : State) : s.biasLoaded.acc = s.acc := rfl
@[simp] theorem State.biasLoaded_inRef (s : State) : s.biasLoaded.inRef = s.inRef := rfl
@[simp] theorem State.biasLoaded_outRef (s : State) : s.biasLoaded.outRef = s.outRef := rfl
@[simp] theorem State.biasLoaded_wgtRef (s : State) : s.biasLoaded.wgtRef = s.wgtRef := rfl
@[simp] theorem State.biasLoaded_biasRef (s : State) : s.biasLoaded.biasRef = s.biasRef := rfl
@[simp] theorem State.biasLoaded_biasValid (s : State) : s.biasLoaded.biasValid = true := rfl
@[simp] theorem State.biasLoaded_wbufTag (s : State) : s.biasLoaded.wbufTag = s.wbufTag := rfl
@[simp] theorem State.biasLoaded_rowsPushed (s : State) : s.biasLoaded.rowsPushed = s.rowsPushed := rfl
@[simp] theorem State.biasLoaded_windowTag (s : State) : s.biasLoaded.windowTag = s.windowTag := rfl
@[simp] theorem State.biasLoaded_accTag (s : State) : s.biasLoaded.accTag = s.accTag := rfl
@[simp] theorem State.biasLoaded_inMem (s : State) : s.biasLoaded.inMem = s.inMem := rfl
@[simp] theorem State.biasLoaded_wgtMem (s : State) : s.biasLoaded.wgtMem = s.wgtMem := rfl
@[simp] theorem State.biasLoaded_biasMem (s : State) : s.biasLoaded.biasMem = s.biasMem := rfl
@[simp] theorem State.biasLoaded_outMem (s : State) : s.biasLoaded.outMem = s.outMem := rfl
@[simp] theorem State.biasLoaded_duty (s : State) : s.biasLoaded.duty = s.duty := rfl
@[simp] theorem State.biasLoaded_hostSaw (s : State) : s.biasLoaded.hostSaw = s.hostSaw := rfl
@[simp] theorem State.biasLoaded_agenda (s : State) : s.biasLoaded.agenda = s.agenda := rfl

/-! ### weightsLoaded -/

@[simp] theorem State.weightsLoaded_cfg (s : State) (co0 ci0 : Nat) : (s.weightsLoaded co0 ci0).cfg = s.cfg := rfl
@[simp] theorem State.weightsLoaded_start (s : State) (co0 ci0 : Nat) : (s.weightsLoaded co0 ci0).start = s.start := rfl
@[simp] theorem State.weightsLoaded_done (s : State) (co0 ci0 : Nat) : (s.weightsLoaded co0 ci0).done = s.done := rfl
@[simp] theorem State.weightsLoaded_pc (s : State) (co0 ci0 : Nat) : (s.weightsLoaded co0 ci0).pc = { s.pc with phase := .pushRow, y := 0, x := s.cfg.k - 1 } := rfl
@[simp] theorem State.weightsLoaded_rowPtr (s : State) (co0 ci0 : Nat) : (s.weightsLoaded co0 ci0).rowPtr = 0 := rfl
@[simp] theorem State.weightsLoaded_lineBuf (s : State) (co0 ci0 : Nat) : (s.weightsLoaded co0 ci0).lineBuf = s.lineBuf := rfl
@[simp] theorem State.weightsLoaded_bias (s : State) (co0 ci0 : Nat) : (s.weightsLoaded co0 ci0).bias = s.bias := rfl
@[simp] theorem State.weightsLoaded_window (s : State) (co0 ci0 : Nat) : (s.weightsLoaded co0 ci0).window = s.window := rfl
@[simp] theorem State.weightsLoaded_acc (s : State) (co0 ci0 : Nat) : (s.weightsLoaded co0 ci0).acc = s.acc := rfl
@[simp] theorem State.weightsLoaded_inRef (s : State) (co0 ci0 : Nat) : (s.weightsLoaded co0 ci0).inRef = s.inRef := rfl
@[simp] theorem State.weightsLoaded_outRef (s : State) (co0 ci0 : Nat) : (s.weightsLoaded co0 ci0).outRef = s.outRef := rfl
@[simp] theorem State.weightsLoaded_wgtRef (s : State) (co0 ci0 : Nat) : (s.weightsLoaded co0 ci0).wgtRef = s.wgtRef := rfl
@[simp] theorem State.weightsLoaded_biasRef (s : State) (co0 ci0 : Nat) : (s.weightsLoaded co0 ci0).biasRef = s.biasRef := rfl
@[simp] theorem State.weightsLoaded_biasValid (s : State) (co0 ci0 : Nat) : (s.weightsLoaded co0 ci0).biasValid = s.biasValid := rfl
@[simp] theorem State.weightsLoaded_wbufTag (s : State) (co0 ci0 : Nat) : (s.weightsLoaded co0 ci0).wbufTag = some ⟨co0, ci0⟩ := rfl
@[simp] theorem State.weightsLoaded_rowsPushed (s : State) (co0 ci0 : Nat) : (s.weightsLoaded co0 ci0).rowsPushed = some ⟨ci0, 0⟩ := rfl
@[simp] theorem State.weightsLoaded_windowTag (s : State) (co0 ci0 : Nat) : (s.weightsLoaded co0 ci0).windowTag = none := rfl
@[simp] theorem State.weightsLoaded_accTag (s : State) (co0 ci0 : Nat) : (s.weightsLoaded co0 ci0).accTag = s.accTag := rfl
@[simp] theorem State.weightsLoaded_inMem (s : State) (co0 ci0 : Nat) : (s.weightsLoaded co0 ci0).inMem = s.inMem := rfl
@[simp] theorem State.weightsLoaded_wgtMem (s : State) (co0 ci0 : Nat) : (s.weightsLoaded co0 ci0).wgtMem = s.wgtMem := rfl
@[simp] theorem State.weightsLoaded_biasMem (s : State) (co0 ci0 : Nat) : (s.weightsLoaded co0 ci0).biasMem = s.biasMem := rfl
@[simp] theorem State.weightsLoaded_outMem (s : State) (co0 ci0 : Nat) : (s.weightsLoaded co0 ci0).outMem = s.outMem := rfl
@[simp] theorem State.weightsLoaded_duty (s : State) (co0 ci0 : Nat) : (s.weightsLoaded co0 ci0).duty = s.duty := rfl
@[simp] theorem State.weightsLoaded_hostSaw (s : State) (co0 ci0 : Nat) : (s.weightsLoaded co0 ci0).hostSaw = s.hostSaw := rfl
@[simp] theorem State.weightsLoaded_agenda (s : State) (co0 ci0 : Nat) : (s.weightsLoaded co0 ci0).agenda = s.agenda := rfl

/-! ### rowPushed -/

@[simp] theorem State.rowPushed_cfg (s : State) (y ci0 : Nat) : (s.rowPushed y ci0).cfg = s.cfg := rfl
@[simp] theorem State.rowPushed_start (s : State) (y ci0 : Nat) : (s.rowPushed y ci0).start = s.start := rfl
@[simp] theorem State.rowPushed_done (s : State) (y ci0 : Nat) : (s.rowPushed y ci0).done = s.done := rfl
@[simp] theorem State.rowPushed_rowPtr (s : State) (y ci0 : Nat) : (s.rowPushed y ci0).rowPtr = (s.rowPtr + 1) % s.cfg.k := rfl
@[simp] theorem State.rowPushed_wbuf (s : State) (y ci0 : Nat) : (s.rowPushed y ci0).wbuf = s.wbuf := rfl
@[simp] theorem State.rowPushed_bias (s : State) (y ci0 : Nat) : (s.rowPushed y ci0).bias = s.bias := rfl
@[simp] theorem State.rowPushed_window (s : State) (y ci0 : Nat) : (s.rowPushed y ci0).window = s.window := rfl
@[simp] theorem State.rowPushed_acc (s : State) (y ci0 : Nat) : (s.rowPushed y ci0).acc = s.acc := rfl
@[simp] theorem State.rowPushed_inRef (s : State) (y ci0 : Nat) : (s.rowPushed y ci0).inRef = s.inRef := rfl
@[simp] theorem State.rowPushed_outRef (s : State) (y ci0 : Nat) : (s.rowPushed y ci0).outRef = s.outRef := rfl
@[simp] theorem State.rowPushed_wgtRef (s : State) (y ci0 : Nat) : (s.rowPushed y ci0).wgtRef = s.wgtRef := rfl
@[simp] theorem State.rowPushed_biasRef (s : State) (y ci0 : Nat) : (s.rowPushed y ci0).biasRef = s.biasRef := rfl
@[simp] theorem State.rowPushed_biasValid (s : State) (y ci0 : Nat) : (s.rowPushed y ci0).biasValid = s.biasValid := rfl
@[simp] theorem State.rowPushed_wbufTag (s : State) (y ci0 : Nat) : (s.rowPushed y ci0).wbufTag = s.wbufTag := rfl
@[simp] theorem State.rowPushed_rowsPushed (s : State) (y ci0 : Nat) : (s.rowPushed y ci0).rowsPushed = some ⟨ci0, y + 1⟩ := rfl
@[simp] theorem State.rowPushed_windowTag (s : State) (y ci0 : Nat) : (s.rowPushed y ci0).windowTag = none := rfl
@[simp] theorem State.rowPushed_accTag (s : State) (y ci0 : Nat) : (s.rowPushed y ci0).accTag = s.accTag := rfl
@[simp] theorem State.rowPushed_inMem (s : State) (y ci0 : Nat) : (s.rowPushed y ci0).inMem = s.inMem := rfl
@[simp] theorem State.rowPushed_wgtMem (s : State) (y ci0 : Nat) : (s.rowPushed y ci0).wgtMem = s.wgtMem := rfl
@[simp] theorem State.rowPushed_biasMem (s : State) (y ci0 : Nat) : (s.rowPushed y ci0).biasMem = s.biasMem := rfl
@[simp] theorem State.rowPushed_outMem (s : State) (y ci0 : Nat) : (s.rowPushed y ci0).outMem = s.outMem := rfl
@[simp] theorem State.rowPushed_duty (s : State) (y ci0 : Nat) : (s.rowPushed y ci0).duty = s.duty := rfl
@[simp] theorem State.rowPushed_hostSaw (s : State) (y ci0 : Nat) : (s.rowPushed y ci0).hostSaw = s.hostSaw := rfl
@[simp] theorem State.rowPushed_agenda (s : State) (y ci0 : Nat) : (s.rowPushed y ci0).agenda = s.agenda := rfl

/-! ### windowBuilt -/

@[simp] theorem State.windowBuilt_cfg (s : State) (y x : Nat) : (s.windowBuilt y x).cfg = s.cfg := rfl
@[simp] theorem State.windowBuilt_start (s : State) (y x : Nat) : (s.windowBuilt y x).start = s.start := rfl
@[simp] theorem State.windowBuilt_done (s : State) (y x : Nat) : (s.windowBuilt y x).done = s.done := rfl
@[simp] theorem State.windowBuilt_pc (s : State) (y x : Nat) : (s.windowBuilt y x).pc = { s.pc with phase := .accumulate } := rfl
@[simp] theorem State.windowBuilt_rowPtr (s : State) (y x : Nat) : (s.windowBuilt y x).rowPtr = s.rowPtr := rfl
@[simp] theorem State.windowBuilt_lineBuf (s : State) (y x : Nat) : (s.windowBuilt y x).lineBuf = s.lineBuf := rfl
@[simp] theorem State.windowBuilt_wbuf (s : State) (y x : Nat) : (s.windowBuilt y x).wbuf = s.wbuf := rfl
@[simp] theorem State.windowBuilt_bias (s : State) (y x : Nat) : (s.windowBuilt y x).bias = s.bias := rfl
@[simp] theorem State.windowBuilt_acc (s : State) (y x : Nat) : (s.windowBuilt y x).acc = s.acc := rfl
@[simp] theorem State.windowBuilt_inRef (s : State) (y x : Nat) : (s.windowBuilt y x).inRef = s.inRef := rfl
@[simp] theorem State.windowBuilt_outRef (s : State) (y x : Nat) : (s.windowBuilt y x).outRef = s.outRef := rfl
@[simp] theorem State.windowBuilt_wgtRef (s : State) (y x : Nat) : (s.windowBuilt y x).wgtRef = s.wgtRef := rfl
@[simp] theorem State.windowBuilt_biasRef (s : State) (y x : Nat) : (s.windowBuilt y x).biasRef = s.biasRef := rfl
@[simp] theorem State.windowBuilt_biasValid (s : State) (y x : Nat) : (s.windowBuilt y x).biasValid = s.biasValid := rfl
@[simp] theorem State.windowBuilt_wbufTag (s : State) (y x : Nat) : (s.windowBuilt y x).wbufTag = s.wbufTag := rfl
@[simp] theorem State.windowBuilt_rowsPushed (s : State) (y x : Nat) : (s.windowBuilt y x).rowsPushed = s.rowsPushed := rfl
@[simp] theorem State.windowBuilt_windowTag (s : State) (y x : Nat) : (s.windowBuilt y x).windowTag = some ⟨s.pc.ci0, y, x⟩ := rfl
@[simp] theorem State.windowBuilt_accTag (s : State) (y x : Nat) : (s.windowBuilt y x).accTag = s.accTag := rfl
@[simp] theorem State.windowBuilt_inMem (s : State) (y x : Nat) : (s.windowBuilt y x).inMem = s.inMem := rfl
@[simp] theorem State.windowBuilt_wgtMem (s : State) (y x : Nat) : (s.windowBuilt y x).wgtMem = s.wgtMem := rfl
@[simp] theorem State.windowBuilt_biasMem (s : State) (y x : Nat) : (s.windowBuilt y x).biasMem = s.biasMem := rfl
@[simp] theorem State.windowBuilt_outMem (s : State) (y x : Nat) : (s.windowBuilt y x).outMem = s.outMem := rfl
@[simp] theorem State.windowBuilt_duty (s : State) (y x : Nat) : (s.windowBuilt y x).duty = s.duty := rfl
@[simp] theorem State.windowBuilt_hostSaw (s : State) (y x : Nat) : (s.windowBuilt y x).hostSaw = s.hostSaw := rfl
@[simp] theorem State.windowBuilt_agenda (s : State) (y x : Nat) : (s.windowBuilt y x).agenda = s.agenda := rfl

/-! ### accumulated -/

@[simp] theorem State.accumulated_cfg (s : State) (y x : Nat) : (s.accumulated y x).cfg = s.cfg := rfl
@[simp] theorem State.accumulated_start (s : State) (y x : Nat) : (s.accumulated y x).start = s.start := rfl
@[simp] theorem State.accumulated_done (s : State) (y x : Nat) : (s.accumulated y x).done = s.done := rfl
@[simp] theorem State.accumulated_pc (s : State) (y x : Nat) : (s.accumulated y x).pc = if s.lastTile then { s.pc with phase := .requantizeWrite } else s.pc.advance s.cfg := rfl
@[simp] theorem State.accumulated_rowPtr (s : State) (y x : Nat) : (s.accumulated y x).rowPtr = s.rowPtr := rfl
@[simp] theorem State.accumulated_lineBuf (s : State) (y x : Nat) : (s.accumulated y x).lineBuf = s.lineBuf := rfl
@[simp] theorem State.accumulated_wbuf (s : State) (y x : Nat) : (s.accumulated y x).wbuf = s.wbuf := rfl
@[simp] theorem State.accumulated_bias (s : State) (y x : Nat) : (s.accumulated y x).bias = s.bias := rfl
@[simp] theorem State.accumulated_window (s : State) (y x : Nat) : (s.accumulated y x).window = s.window := rfl
@[simp] theorem State.accumulated_inRef (s : State) (y x : Nat) : (s.accumulated y x).inRef = s.inRef := rfl
@[simp] theorem State.accumulated_outRef (s : State) (y x : Nat) : (s.accumulated y x).outRef = s.outRef := rfl
@[simp] theorem State.accumulated_wgtRef (s : State) (y x : Nat) : (s.accumulated y x).wgtRef = s.wgtRef := rfl
@[simp] theorem State.accumulated_biasRef (s : State) (y x : Nat) : (s.accumulated y x).biasRef = s.biasRef := rfl
@[simp] theorem State.accumulated_biasValid (s : State) (y x : Nat) : (s.accumulated y x).biasValid = s.biasValid := rfl
@[simp] theorem State.accumulated_wbufTag (s : State) (y x : Nat) : (s.accumulated y x).wbufTag = s.wbufTag := rfl
@[simp] theorem State.accumulated_rowsPushed (s : State) (y x : Nat) : (s.accumulated y x).rowsPushed = s.rowsPushed := rfl
@[simp] theorem State.accumulated_windowTag (s : State) (y x : Nat) : (s.accumulated y x).windowTag = s.windowTag := rfl
@[simp] theorem State.accumulated_accTag (s : State) (y x : Nat) : (s.accumulated y x).accTag = s.withBankTag (s.cfg.outCoord y) (s.cfg.outCoord x) ⟨s.pc.co0, s.pc.ci0 + s.cfg.ciTile⟩ := rfl
@[simp] theorem State.accumulated_inMem (s : State) (y x : Nat) : (s.accumulated y x).inMem = s.inMem := rfl
@[simp] theorem State.accumulated_wgtMem (s : State) (y x : Nat) : (s.accumulated y x).wgtMem = s.wgtMem := rfl
@[simp] theorem State.accumulated_biasMem (s : State) (y x : Nat) : (s.accumulated y x).biasMem = s.biasMem := rfl
@[simp] theorem State.accumulated_outMem (s : State) (y x : Nat) : (s.accumulated y x).outMem = s.outMem := rfl
@[simp] theorem State.accumulated_duty (s : State) (y x : Nat) : (s.accumulated y x).duty = s.duty := rfl
@[simp] theorem State.accumulated_hostSaw (s : State) (y x : Nat) : (s.accumulated y x).hostSaw = s.hostSaw := rfl
@[simp] theorem State.accumulated_agenda (s : State) (y x : Nat) : (s.accumulated y x).agenda = s.agenda := rfl

/-! ### requantized -/

@[simp] theorem State.requantized_cfg (s : State) (y x : Nat) : (s.requantized y x).cfg = s.cfg := rfl
@[simp] theorem State.requantized_start (s : State) (y x : Nat) : (s.requantized y x).start = s.start := rfl
@[simp] theorem State.requantized_done (s : State) (y x : Nat) : (s.requantized y x).done = s.done := rfl
@[simp] theorem State.requantized_pc (s : State) (y x : Nat) : (s.requantized y x).pc = s.pc.advance s.cfg := rfl
@[simp] theorem State.requantized_rowPtr (s : State) (y x : Nat) : (s.requantized y x).rowPtr = s.rowPtr := rfl
@[simp] theorem State.requantized_lineBuf (s : State) (y x : Nat) : (s.requantized y x).lineBuf = s.lineBuf := rfl
@[simp] theorem State.requantized_wbuf (s : State) (y x : Nat) : (s.requantized y x).wbuf = s.wbuf := rfl
@[simp] theorem State.requantized_bias (s : State) (y x : Nat) : (s.requantized y x).bias = s.bias := rfl
@[simp] theorem State.requantized_window (s : State) (y x : Nat) : (s.requantized y x).window = s.window := rfl
@[simp] theorem State.requantized_acc (s : State) (y x : Nat) : (s.requantized y x).acc = s.acc := rfl
@[simp] theorem State.requantized_inRef (s : State) (y x : Nat) : (s.requantized y x).inRef = s.inRef := rfl
@[simp] theorem State.requantized_outRef (s : State) (y x : Nat) : (s.requantized y x).outRef = s.outRef := rfl
@[simp] theorem State.requantized_wgtRef (s : State) (y x : Nat) : (s.requantized y x).wgtRef = s.wgtRef := rfl
@[simp] theorem State.requantized_biasRef (s : State) (y x : Nat) : (s.requantized y x).biasRef = s.biasRef := rfl
@[simp] theorem State.requantized_biasValid (s : State) (y x : Nat) : (s.requantized y x).biasValid = s.biasValid := rfl
@[simp] theorem State.requantized_wbufTag (s : State) (y x : Nat) : (s.requantized y x).wbufTag = s.wbufTag := rfl
@[simp] theorem State.requantized_rowsPushed (s : State) (y x : Nat) : (s.requantized y x).rowsPushed = s.rowsPushed := rfl
@[simp] theorem State.requantized_windowTag (s : State) (y x : Nat) : (s.requantized y x).windowTag = s.windowTag := rfl
@[simp] theorem State.requantized_accTag (s : State) (y x : Nat) : (s.requantized y x).accTag = s.accTag := rfl
@[simp] theorem State.requantized_inMem (s : State) (y x : Nat) : (s.requantized y x).inMem = s.inMem := rfl
@[simp] theorem State.requantized_wgtMem (s : State) (y x : Nat) : (s.requantized y x).wgtMem = s.wgtMem := rfl
@[simp] theorem State.requantized_biasMem (s : State) (y x : Nat) : (s.requantized y x).biasMem = s.biasMem := rfl
@[simp] theorem State.requantized_duty (s : State) (y x : Nat) : (s.requantized y x).duty = s.duty := rfl
@[simp] theorem State.requantized_hostSaw (s : State) (y x : Nat) : (s.requantized y x).hostSaw = s.hostSaw := rfl
@[simp] theorem State.requantized_agenda (s : State) (y x : Nat) : (s.requantized y x).agenda = s.agenda := rfl

/-! ### finished -/

@[simp] theorem State.finished_cfg (s : State) : s.finished.cfg = s.cfg := rfl
@[simp] theorem State.finished_start (s : State) : s.finished.start = s.start := rfl
@[simp] theorem State.finished_done (s : State) : s.finished.done = true := rfl
@[simp] theorem State.finished_pc (s : State) : s.finished.pc = { s.pc with phase := .idle } := rfl
@[simp] theorem State.finished_rowPtr (s : State) : s.finished.rowPtr = s.rowPtr := rfl
@[simp] theorem State.finished_lineBuf (s : State) : s.finished.lineBuf = s.lineBuf := rfl
@[simp] theorem State.finished_wbuf (s : State) : s.finished.wbuf = s.wbuf := rfl
@[simp] theorem State.finished_bias (s : State) : s.finished.bias = s.bias := rfl
@[simp] theorem State.finished_window (s : State) : s.finished.window = s.window := rfl
@[simp] theorem State.finished_acc (s : State) : s.finished.acc = s.acc := rfl
@[simp] theorem State.finished_inRef (s : State) : s.finished.inRef = s.inRef := rfl
@[simp] theorem State.finished_outRef (s : State) : s.finished.outRef = s.outRef := rfl
@[simp] theorem State.finished_wgtRef (s : State) : s.finished.wgtRef = s.wgtRef := rfl
@[simp] theorem State.finished_biasRef (s : State) : s.finished.biasRef = s.biasRef := rfl
@[simp] theorem State.finished_biasValid (s : State) : s.finished.biasValid = s.biasValid := rfl
@[simp] theorem State.finished_wbufTag (s : State) : s.finished.wbufTag = s.wbufTag := rfl
@[simp] theorem State.finished_rowsPushed (s : State) : s.finished.rowsPushed = s.rowsPushed := rfl
@[simp] theorem State.finished_windowTag (s : State) : s.finished.windowTag = s.windowTag := rfl
@[simp] theorem State.finished_accTag (s : State) : s.finished.accTag = s.accTag := rfl
@[simp] theorem State.finished_inMem (s : State) : s.finished.inMem = s.inMem := rfl
@[simp] theorem State.finished_wgtMem (s : State) : s.finished.wgtMem = s.wgtMem := rfl
@[simp] theorem State.finished_biasMem (s : State) : s.finished.biasMem = s.biasMem := rfl
@[simp] theorem State.finished_outMem (s : State) : s.finished.outMem = s.outMem := rfl
@[simp] theorem State.finished_duty (s : State) : s.finished.duty = s.duty := rfl
@[simp] theorem State.finished_hostSaw (s : State) : s.finished.hostSaw = s.hostSaw := rfl
@[simp] theorem State.finished_agenda (s : State) : s.finished.agenda = s.agenda := rfl

/-! ### resetEvent -/

@[simp] theorem State.resetEvent_cfg (s : State) : s.resetEvent.cfg = s.cfg := rfl
@[simp] theorem State.resetEvent_start (s : State) : s.resetEvent.start = false := rfl
@[simp] theorem State.resetEvent_done (s : State) : s.resetEvent.done = false := rfl
@[simp] theorem State.resetEvent_pc (s : State) : s.resetEvent.pc = ⟨.idle, 0, 0, 0, 0⟩ := rfl
@[simp] theorem State.resetEvent_rowPtr (s : State) : s.resetEvent.rowPtr = 0 := rfl
@[simp] theorem State.resetEvent_lineBuf (s : State) : s.resetEvent.lineBuf = [] := rfl
@[simp] theorem State.resetEvent_wbuf (s : State) : s.resetEvent.wbuf = [] := rfl
@[simp] theorem State.resetEvent_bias (s : State) : s.resetEvent.bias = [] := rfl
@[simp] theorem State.resetEvent_window (s : State) : s.resetEvent.window = [] := rfl
@[simp] theorem State.resetEvent_acc (s : State) : s.resetEvent.acc = [] := rfl
@[simp] theorem State.resetEvent_inRef (s : State) : s.resetEvent.inRef = .unwritten := rfl
@[simp] theorem State.resetEvent_outRef (s : State) : s.resetEvent.outRef = .unwritten := rfl
@[simp] theorem State.resetEvent_wgtRef (s : State) : s.resetEvent.wgtRef = .unwritten := rfl
@[simp] theorem State.resetEvent_biasRef (s : State) : s.resetEvent.biasRef = .unwritten := rfl
@[simp] theorem State.resetEvent_biasValid (s : State) : s.resetEvent.biasValid = false := rfl
@[simp] theorem State.resetEvent_wbufTag (s : State) : s.resetEvent.wbufTag = none := rfl
@[simp] theorem State.resetEvent_rowsPushed (s : State) : s.resetEvent.rowsPushed = none := rfl
@[simp] theorem State.resetEvent_windowTag (s : State) : s.resetEvent.windowTag = none := rfl
@[simp] theorem State.resetEvent_accTag (s : State) : s.resetEvent.accTag = [] := rfl
@[simp] theorem State.resetEvent_inMem (s : State) : s.resetEvent.inMem = s.inMem := rfl
@[simp] theorem State.resetEvent_wgtMem (s : State) : s.resetEvent.wgtMem = s.wgtMem := rfl
@[simp] theorem State.resetEvent_biasMem (s : State) : s.resetEvent.biasMem = s.biasMem := rfl
@[simp] theorem State.resetEvent_outMem (s : State) : s.resetEvent.outMem = s.outMem := rfl
@[simp] theorem State.resetEvent_duty (s : State) : s.resetEvent.duty = if s.duty = .awaiting then .cutShort else s.duty := rfl
@[simp] theorem State.resetEvent_hostSaw (s : State) : s.resetEvent.hostSaw = s.hostSaw := rfl
@[simp] theorem State.resetEvent_agenda (s : State) : s.resetEvent.agenda = s.agenda := rfl

/-! ### withRef and withSpace -/

@[simp] theorem State.withRef_cfg (s : State) (sp : Space) (r : Ref) : (s.withRef sp r).cfg = s.cfg := by cases sp <;> rfl
@[simp] theorem State.withRef_start (s : State) (sp : Space) (r : Ref) : (s.withRef sp r).start = s.start := by cases sp <;> rfl
@[simp] theorem State.withRef_done (s : State) (sp : Space) (r : Ref) : (s.withRef sp r).done = s.done := by cases sp <;> rfl
@[simp] theorem State.withRef_pc (s : State) (sp : Space) (r : Ref) : (s.withRef sp r).pc = s.pc := by cases sp <;> rfl
@[simp] theorem State.withRef_rowPtr (s : State) (sp : Space) (r : Ref) : (s.withRef sp r).rowPtr = s.rowPtr := by cases sp <;> rfl
@[simp] theorem State.withRef_lineBuf (s : State) (sp : Space) (r : Ref) : (s.withRef sp r).lineBuf = s.lineBuf := by cases sp <;> rfl
@[simp] theorem State.withRef_wbuf (s : State) (sp : Space) (r : Ref) : (s.withRef sp r).wbuf = s.wbuf := by cases sp <;> rfl
@[simp] theorem State.withRef_bias (s : State) (sp : Space) (r : Ref) : (s.withRef sp r).bias = s.bias := by cases sp <;> rfl
@[simp] theorem State.withRef_window (s : State) (sp : Space) (r : Ref) : (s.withRef sp r).window = s.window := by cases sp <;> rfl
@[simp] theorem State.withRef_acc (s : State) (sp : Space) (r : Ref) : (s.withRef sp r).acc = s.acc := by cases sp <;> rfl
@[simp] theorem State.withRef_biasValid (s : State) (sp : Space) (r : Ref) : (s.withRef sp r).biasValid = s.biasValid := by cases sp <;> rfl
@[simp] theorem State.withRef_wbufTag (s : State) (sp : Space) (r : Ref) : (s.withRef sp r).wbufTag = s.wbufTag := by cases sp <;> rfl
@[simp] theorem State.withRef_rowsPushed (s : State) (sp : Space) (r : Ref) : (s.withRef sp r).rowsPushed = s.rowsPushed := by cases sp <;> rfl
@[simp] theorem State.withRef_windowTag (s : State) (sp : Space) (r : Ref) : (s.withRef sp r).windowTag = s.windowTag := by cases sp <;> rfl
@[simp] theorem State.withRef_accTag (s : State) (sp : Space) (r : Ref) : (s.withRef sp r).accTag = s.accTag := by cases sp <;> rfl
@[simp] theorem State.withRef_inMem (s : State) (sp : Space) (r : Ref) : (s.withRef sp r).inMem = s.inMem := by cases sp <;> rfl
@[simp] theorem State.withRef_wgtMem (s : State) (sp : Space) (r : Ref) : (s.withRef sp r).wgtMem = s.wgtMem := by cases sp <;> rfl
@[simp] theorem State.withRef_biasMem (s : State) (sp : Space) (r : Ref) : (s.withRef sp r).biasMem = s.biasMem := by cases sp <;> rfl
@[simp] theorem State.withRef_outMem (s : State) (sp : Space) (r : Ref) : (s.withRef sp r).outMem = s.outMem := by cases sp <;> rfl
@[simp] theorem State.withRef_duty (s : State) (sp : Space) (r : Ref) : (s.withRef sp r).duty = s.duty := by cases sp <;> rfl
@[simp] theorem State.withRef_hostSaw (s : State) (sp : Space) (r : Ref) : (s.withRef sp r).hostSaw = s.hostSaw := by cases sp <;> rfl
@[simp] theorem State.withRef_agenda (s : State) (sp : Space) (r : Ref) : (s.withRef sp r).agenda = s.agenda := by cases sp <;> rfl
@[simp] theorem State.withSpace_cfg (s : State) (sp : Space) (m : Memory) : (s.withSpace sp m).cfg = s.cfg := by cases sp <;> rfl
@[simp] theorem State.withSpace_start (s : State) (sp : Space) (m : Memory) : (s.withSpace sp m).start = s.start := by cases sp <;> rfl
@[simp] theorem State.withSpace_done (s : State) (sp : Space) (m : Memory) : (s.withSpace sp m).done = s.done := by cases sp <;> rfl
@[simp] theorem State.withSpace_pc (s : State) (sp : Space) (m : Memory) : (s.withSpace sp m).pc = s.pc := by cases sp <;> rfl
@[simp] theorem State.withSpace_rowPtr (s : State) (sp : Space) (m : Memory) : (s.withSpace sp m).rowPtr = s.rowPtr := by cases sp <;> rfl
@[simp] theorem State.withSpace_lineBuf (s : State) (sp : Space) (m : Memory) : (s.withSpace sp m).lineBuf = s.lineBuf := by cases sp <;> rfl
@[simp] theorem State.withSpace_wbuf (s : State) (sp : Space) (m : Memory) : (s.withSpace sp m).wbuf = s.wbuf := by cases sp <;> rfl
@[simp] theorem State.withSpace_bias (s : State) (sp : Space) (m : Memory) : (s.withSpace sp m).bias = s.bias := by cases sp <;> rfl
@[simp] theorem State.withSpace_window (s : State) (sp : Space) (m : Memory) : (s.withSpace sp m).window = s.window := by cases sp <;> rfl
@[simp] theorem State.withSpace_acc (s : State) (sp : Space) (m : Memory) : (s.withSpace sp m).acc = s.acc := by cases sp <;> rfl
@[simp] theorem State.withSpace_inRef (s : State) (sp : Space) (m : Memory) : (s.withSpace sp m).inRef = s.inRef := by cases sp <;> rfl
@[simp] theorem State.withSpace_outRef (s : State) (sp : Space) (m : Memory) : (s.withSpace sp m).outRef = s.outRef := by cases sp <;> rfl
@[simp] theorem State.withSpace_wgtRef (s : State) (sp : Space) (m : Memory) : (s.withSpace sp m).wgtRef = s.wgtRef := by cases sp <;> rfl
@[simp] theorem State.withSpace_biasRef (s : State) (sp : Space) (m : Memory) : (s.withSpace sp m).biasRef = s.biasRef := by cases sp <;> rfl
@[simp] theorem State.withSpace_biasValid (s : State) (sp : Space) (m : Memory) : (s.withSpace sp m).biasValid = s.biasValid := by cases sp <;> rfl
@[simp] theorem State.withSpace_wbufTag (s : State) (sp : Space) (m : Memory) : (s.withSpace sp m).wbufTag = s.wbufTag := by cases sp <;> rfl
@[simp] theorem State.withSpace_rowsPushed (s : State) (sp : Space) (m : Memory) : (s.withSpace sp m).rowsPushed = s.rowsPushed := by cases sp <;> rfl
@[simp] theorem State.withSpace_windowTag (s : State) (sp : Space) (m : Memory) : (s.withSpace sp m).windowTag = s.windowTag := by cases sp <;> rfl
@[simp] theorem State.withSpace_accTag (s : State) (sp : Space) (m : Memory) : (s.withSpace sp m).accTag = s.accTag := by cases sp <;> rfl
@[simp] theorem State.withSpace_duty (s : State) (sp : Space) (m : Memory) : (s.withSpace sp m).duty = s.duty := by cases sp <;> rfl
@[simp] theorem State.withSpace_hostSaw (s : State) (sp : Space) (m : Memory) : (s.withSpace sp m).hostSaw = s.hostSaw := by cases sp <;> rfl
@[simp] theorem State.withSpace_agenda (s : State) (sp : Space) (m : Memory) : (s.withSpace sp m).agenda = s.agenda := by cases sp <;> rfl
@[simp] theorem State.withSpace_space (s : State) (sp : Space) (m : Memory) : (s.withSpace sp m).space sp = m := by cases sp <;> rfl
theorem State.withSpace_space_ne (s : State) {sp sp' : Space} (m : Memory) (h : sp' ≠ sp) : (s.withSpace sp m).space sp' = s.space sp' := by
  cases sp <;> cases sp' <;> first | rfl | exact absurd rfl h
@[simp] theorem State.withRef_ref (s : State) (sp : Space) (r : Ref) : (s.withRef sp r).ref sp = r := by cases sp <;> rfl

/-! ### sees -/

@[simp] theorem State.sees_cfg (s : State) (v : HostValue) : (s.sees v).cfg = s.cfg := rfl
@[simp] theorem State.sees_start (s : State) (v : HostValue) : (s.sees v).start = s.start := rfl
@[simp] theorem State.sees_done (s : State) (v : HostValue) : (s.sees v).done = s.done := rfl
@[simp] theorem State.sees_pc (s : State) (v : HostValue) : (s.sees v).pc = s.pc := rfl
@[simp] theorem State.sees_rowPtr (s : State) (v : HostValue) : (s.sees v).rowPtr = s.rowPtr := rfl
@[simp] theorem State.sees_lineBuf (s : State) (v : HostValue) : (s.sees v).lineBuf = s.lineBuf := rfl
@[simp] theorem State.sees_wbuf (s : State) (v : HostValue) : (s.sees v).wbuf = s.wbuf := rfl
@[simp] theorem State.sees_bias (s : State) (v : HostValue) : (s.sees v).bias = s.bias := rfl
@[simp] theorem State.sees_window (s : State) (v : HostValue) : (s.sees v).window = s.window := rfl
@[simp] theorem State.sees_acc (s : State) (v : HostValue) : (s.sees v).acc = s.acc := rfl
@[simp] theorem State.sees_inRef (s : State) (v : HostValue) : (s.sees v).inRef = s.inRef := rfl
@[simp] theorem State.sees_outRef (s : State) (v : HostValue) : (s.sees v).outRef = s.outRef := rfl
@[simp] theorem State.sees_wgtRef (s : State) (v : HostValue) : (s.sees v).wgtRef = s.wgtRef := rfl
@[simp] theorem State.sees_biasRef (s : State) (v : HostValue) : (s.sees v).biasRef = s.biasRef := rfl
@[simp] theorem State.sees_biasValid (s : State) (v : HostValue) : (s.sees v).biasValid = s.biasValid := rfl
@[simp] theorem State.sees_wbufTag (s : State) (v : HostValue) : (s.sees v).wbufTag = s.wbufTag := rfl
@[simp] theorem State.sees_rowsPushed (s : State) (v : HostValue) : (s.sees v).rowsPushed = s.rowsPushed := rfl
@[simp] theorem State.sees_windowTag (s : State) (v : HostValue) : (s.sees v).windowTag = s.windowTag := rfl
@[simp] theorem State.sees_accTag (s : State) (v : HostValue) : (s.sees v).accTag = s.accTag := rfl
@[simp] theorem State.sees_inMem (s : State) (v : HostValue) : (s.sees v).inMem = s.inMem := rfl
@[simp] theorem State.sees_wgtMem (s : State) (v : HostValue) : (s.sees v).wgtMem = s.wgtMem := rfl
@[simp] theorem State.sees_biasMem (s : State) (v : HostValue) : (s.sees v).biasMem = s.biasMem := rfl
@[simp] theorem State.sees_outMem (s : State) (v : HostValue) : (s.sees v).outMem = s.outMem := rfl
@[simp] theorem State.sees_duty (s : State) (v : HostValue) : (s.sees v).duty = s.duty := rfl
@[simp] theorem State.sees_hostSaw (s : State) (v : HostValue) : (s.sees v).hostSaw = some v := rfl
@[simp] theorem State.sees_agenda (s : State) (v : HostValue) : (s.sees v).agenda = s.agenda := rfl

/-! ### issueFirst -/

@[simp] theorem State.issueFirst_cfg (s : State) (w : OpWord) : (s.issueFirst w).cfg = s.cfg := rfl
@[simp] theorem State.issueFirst_start (s : State) (w : OpWord) : (s.issueFirst w).start = s.start := rfl
@[simp] theorem State.issueFirst_done (s : State) (w : OpWord) : (s.issueFirst w).done = s.done := rfl
@[simp] theorem State.issueFirst_pc (s : State) (w : OpWord) : (s.issueFirst w).pc = s.pc := rfl
@[simp] theorem State.issueFirst_rowPtr (s : State) (w : OpWord) : (s.issueFirst w).rowPtr = s.rowPtr := rfl
@[simp] theorem State.issueFirst_lineBuf (s : State) (w : OpWord) : (s.issueFirst w).lineBuf = s.lineBuf := rfl
@[simp] theorem State.issueFirst_wbuf (s : State) (w : OpWord) : (s.issueFirst w).wbuf = s.wbuf := rfl
@[simp] theorem State.issueFirst_bias (s : State) (w : OpWord) : (s.issueFirst w).bias = s.bias := rfl
@[simp] theorem State.issueFirst_window (s : State) (w : OpWord) : (s.issueFirst w).window = s.window := rfl
@[simp] theorem State.issueFirst_acc (s : State) (w : OpWord) : (s.issueFirst w).acc = s.acc := rfl
@[simp] theorem State.issueFirst_inRef (s : State) (w : OpWord) : (s.issueFirst w).inRef = s.inRef := rfl
@[simp] theorem State.issueFirst_outRef (s : State) (w : OpWord) : (s.issueFirst w).outRef = s.outRef := rfl
@[simp] theorem State.issueFirst_wgtRef (s : State) (w : OpWord) : (s.issueFirst w).wgtRef = s.wgtRef := rfl
@[simp] theorem State.issueFirst_biasRef (s : State) (w : OpWord) : (s.issueFirst w).biasRef = s.biasRef := rfl
@[simp] theorem State.issueFirst_biasValid (s : State) (w : OpWord) : (s.issueFirst w).biasValid = s.biasValid := rfl
@[simp] theorem State.issueFirst_wbufTag (s : State) (w : OpWord) : (s.issueFirst w).wbufTag = s.wbufTag := rfl
@[simp] theorem State.issueFirst_rowsPushed (s : State) (w : OpWord) : (s.issueFirst w).rowsPushed = s.rowsPushed := rfl
@[simp] theorem State.issueFirst_windowTag (s : State) (w : OpWord) : (s.issueFirst w).windowTag = s.windowTag := rfl
@[simp] theorem State.issueFirst_accTag (s : State) (w : OpWord) : (s.issueFirst w).accTag = s.accTag := rfl
@[simp] theorem State.issueFirst_inMem (s : State) (w : OpWord) : (s.issueFirst w).inMem = s.inMem := rfl
@[simp] theorem State.issueFirst_wgtMem (s : State) (w : OpWord) : (s.issueFirst w).wgtMem = s.wgtMem := rfl
@[simp] theorem State.issueFirst_biasMem (s : State) (w : OpWord) : (s.issueFirst w).biasMem = s.biasMem := rfl
@[simp] theorem State.issueFirst_outMem (s : State) (w : OpWord) : (s.issueFirst w).outMem = s.outMem := rfl
@[simp] theorem State.issueFirst_duty (s : State) (w : OpWord) : (s.issueFirst w).duty = s.duty := rfl
@[simp] theorem State.issueFirst_hostSaw (s : State) (w : OpWord) : (s.issueFirst w).hostSaw = s.hostSaw := rfl
@[simp] theorem State.issueFirst_agenda (s : State) (w : OpWord) : (s.issueFirst w).agenda = .driver w :: s.agenda := rfl

end Sys2Proof.Machine
end

