-- ==== Sys2Proof/Laws/Exec.lean ====
section
/-! SUPPORT. For each operation, once: when it answers a next state, and which. -/

namespace Sys2Proof.Machine

theorem checked_eq_next {cs : List (Bool × Refusal)} {a : Result} {t : State} :
    checked cs a = .next t ↔ (∀ p ∈ cs, p.1 = true) ∧ a = .next t := by
  induction cs with
  | nil => simp [checked]
  | cons p cs ih =>
    obtain ⟨b, r⟩ := p
    cases b <;> simp [checked, ih]

/-- A contract over a next state: it answers exactly where every condition holds. -/
theorem checked_next_iff {cs : List (Bool × Refusal)} {t u : State} :
    checked cs (.next u) = .next t ↔ (∀ p ∈ cs, p.1 = true) ∧ t = u := by
  rw [checked_eq_next, Host.Outcome.next.injEq, eq_comm (a := u)]

theorem checked_eq_fault {cs : List (Bool × Refusal)} {a : Result} {f : Fault} :
    checked cs a = .fault f ↔ (∀ p ∈ cs, p.1 = true) ∧ a = .fault f := by
  induction cs with
  | nil => simp [checked]
  | cons p cs ih =>
    obtain ⟨b, r⟩ := p
    cases b <;> simp [checked, ih]

theorem checked_of_holds {cs : List (Bool × Refusal)} {a : Result} (h : ∀ p ∈ cs, p.1 = true) : checked cs a = a := by
  induction cs with
  | nil => rfl
  | cons p cs ih =>
    obtain ⟨b, r⟩ := p
    obtain rfl : b = true := h (b, r) (List.mem_cons_self ..)
    exact ih fun q hq => h q (List.mem_cons_of_mem _ hq)

@[simp] theorem checked_nil (a : Result) : checked [] a = a := rfl

@[simp] theorem checked_first_fails (r : Refusal) (cs : List (Bool × Refusal)) (a : Result) :
    checked ((false, r) :: cs) a = .refused r := rfl

@[simp] theorem checked_first_holds (r : Refusal) (cs : List (Bool × Refusal)) (a : Result) :
    checked ((true, r) :: cs) a = checked cs a := rfl

/-- A contract over a next state answers a next state or a refusal. -/
theorem checked_next_ne_fault (cs : List (Bool × Refusal)) (t : State) (f : Fault) : checked cs (.next t) ≠ .fault f := by
  simp [checked_eq_fault]

theorem isPixel_iff (c : Config) (y x : Nat) :
    c.isPixel y x = true ↔ c.k - 1 ≤ y ∧ y < c.h ∧ c.k - 1 ≤ x ∧ x < c.w := by simp [Config.isPixel]

theorem State.lastTile_iff (s : State) : s.lastTile = true ↔ s.pc.ci0 = s.cfg.cin - s.cfg.ciTile := by
  simp [State.lastTile]

theorem State.firstTile_iff (s : State) : s.firstTile = true ↔ s.pc.ci0 = 0 := by simp [State.firstTile]

theorem State.refsWritten_iff (s : State) : s.refsWritten = true ↔ ∀ sp, (s.ref sp).written = true := by
  constructor
  · intro h sp
    simp only [State.refsWritten, Bool.and_eq_true] at h
    cases sp <;> simp only [State.ref, h]
  · intro h
    simp only [State.refsWritten, Bool.and_eq_true]
    exact ⟨⟨⟨h .input, h .output⟩, h .weights⟩, h .biases⟩

theorem execStart_next_iff {s t : State} :
    execStart s = .next t ↔
      (s.refsWritten = true ∧ s.buffersFit = true ∧ s.pc.phase = .idle) ∧ t = s.started := by
  simp [execStart, checked_next_iff, startChecks, State.busy, and_assoc]

theorem execWaitDone_next (s : State) :
    execWaitDone s = .next (if s.waitEnabled then { s with duty := .free } else s) := by
  unfold execWaitDone
  split <;> rfl

theorem execLoadBias_next_iff {s t : State} :
    execLoadBias s = .next t ↔
      (s.pc.phase = .loadBias ∧ s.cfg.biasBytes ≤ s.biasMem.size) ∧ t = s.biasLoaded := by
  simp [execLoadBias, checked_next_iff, loadBiasChecks, and_comm]

theorem execFinish_next_iff {s t : State} :
    execFinish s = .next t ↔ s.pc.phase = .finish ∧ t = s.finished := by
  simp [execFinish, checked_next_iff, finishChecks]

theorem execLoadWeights_next_iff {co0 ci0 : Nat} {s t : State} :
    execLoadWeights co0 ci0 s = .next t ↔
      ((s.pc.phase = .loadWeights ∧ co0 = s.pc.co0 ∧ ci0 = s.pc.ci0 ∧ s.cfg.CoOrigin co0 ∧ s.cfg.CiOrigin ci0) ∧
        s.cfg.wgtBytes ≤ s.wgtMem.size) ∧ t = s.weightsLoaded co0 ci0 := by
  simp only [execLoadWeights, checked_next_iff, loadWeightsChecks, List.forall_mem_cons, decide_eq_true_eq, List.not_mem_nil, false_implies, implies_true, and_true]

theorem execPushRow_next_iff {y ci0 : Nat} {s t : State} :
    execPushRow y ci0 s = .next t ↔
      ((s.pc.phase = .pushRow ∧ y = s.pc.y ∧ ci0 = s.pc.ci0 ∧ s.rowsPushed = some ⟨ci0, y⟩ ∧ y < s.cfg.h ∧
        s.cfg.CiOrigin ci0) ∧ s.cfg.inBytes ≤ s.inMem.size) ∧ t = s.rowPushed y ci0 := by
  simp only [execPushRow, checked_next_iff, pushRowChecks, List.forall_mem_cons, decide_eq_true_eq, List.not_mem_nil, false_implies, implies_true, and_true]

theorem execBuildWindow_next_iff {y x : Nat} {s t : State} :
    execBuildWindow y x s = .next t ↔
      ((s.pc.phase = .buildWindow ∧ y = s.pc.y ∧ x = s.pc.x) ∧ s.cfg.isPixel y x = true ∧
        s.rowsPushed = some ⟨s.pc.ci0, y + 1⟩ ∧ s.windowSourceHeld x = true) ∧ t = s.windowBuilt y x := by
  simp only [execBuildWindow, checked_next_iff, buildWindowChecks, List.forall_mem_cons, decide_eq_true_eq,
    List.not_mem_nil, false_implies, implies_true, and_true, Bool.and_eq_true, and_assoc]

theorem execAccumulate_next_iff {y x : Nat} {s t : State} :
    execAccumulate y x s = .next t ↔
      ((s.pc.phase = .accumulate ∧ y = s.pc.y ∧ x = s.pc.x) ∧ s.cfg.isPixel y x = true ∧
        s.operandsCurrent y x = true ∧ s.lanesHeld (s.cfg.outCoord y) (s.cfg.outCoord x) = true) ∧
        t = s.accumulated y x := by
  simp only [execAccumulate, checked_next_iff, accumulateChecks, List.forall_mem_cons, decide_eq_true_eq,
    List.not_mem_nil, false_implies, implies_true, and_true, Bool.and_eq_true, and_assoc]

theorem execRequantizeWrite_next_iff {y x : Nat} {s t : State} :
    execRequantizeWrite y x s = .next t ↔
      ((s.pc.phase = .requantizeWrite ∧ y = s.pc.y ∧ x = s.pc.x) ∧ s.cfg.isPixel y x = true ∧
        s.pc.ci0 = s.cfg.cin - s.cfg.ciTile ∧
        s.accTagAt (s.cfg.outCoord y) (s.cfg.outCoord x) = some ⟨s.pc.co0, s.cfg.cin⟩ ∧
        s.cfg.outBytes ≤ s.outMem.size ∧ s.bankHeld (s.cfg.outCoord y) (s.cfg.outCoord x) = true) ∧
        t = s.requantized y x := by
  simp only [execRequantizeWrite, checked_next_iff, requantizeWriteChecks, List.forall_mem_cons, decide_eq_true_eq,
    List.not_mem_nil, false_implies, implies_true, and_true, Bool.and_eq_true, and_assoc,
    State.lastTile_iff]

/-- What an operation did if it answered a next state: one effect per operation. -/
theorem exec_next_cases {i : Instr} {s t : State} (h : exec i s = .next t) :
    (i = .start ∧ s.pc.phase = .idle ∧ t = s.started) ∨
    (i = .waitDone ∧ (t = s ∨ t = { s with duty := .free })) ∨
    (i = .loadBias ∧ s.pc.phase = .loadBias ∧ t = s.biasLoaded) ∨
    (i = .loadWeights s.pc.co0 s.pc.ci0 ∧ s.pc.phase = .loadWeights ∧ s.cfg.CoOrigin s.pc.co0 ∧ s.cfg.CiOrigin s.pc.ci0 ∧
      t = s.weightsLoaded s.pc.co0 s.pc.ci0) ∨
    (i = .pushRow s.pc.y s.pc.ci0 ∧ s.pc.phase = .pushRow ∧ s.pc.y < s.cfg.h ∧ s.cfg.CiOrigin s.pc.ci0 ∧
      t = s.rowPushed s.pc.y s.pc.ci0) ∨
    (i = .buildWindow s.pc.y s.pc.x ∧ s.pc.phase = .buildWindow ∧ s.cfg.isPixel s.pc.y s.pc.x = true ∧
      t = s.windowBuilt s.pc.y s.pc.x) ∨
    (i = .accumulate s.pc.y s.pc.x ∧ s.pc.phase = .accumulate ∧ s.cfg.isPixel s.pc.y s.pc.x = true ∧
      t = s.accumulated s.pc.y s.pc.x) ∨
    (i = .requantizeWrite s.pc.y s.pc.x ∧ s.pc.phase = .requantizeWrite ∧ s.cfg.isPixel s.pc.y s.pc.x = true ∧
      s.pc.ci0 = s.cfg.cin - s.cfg.ciTile ∧ s.cfg.outBytes ≤ s.outMem.size ∧ t = s.requantized s.pc.y s.pc.x) ∨
    (i = .finish ∧ s.pc.phase = .finish ∧ t = s.finished) := by
  cases i with
  | start =>
    obtain ⟨⟨-, -, hp⟩, ht⟩ := execStart_next_iff.mp h
    exact .inl ⟨rfl, hp, ht⟩
  | waitDone =>
    have h' := (execWaitDone_next s).symm.trans h
    simp only [Host.Outcome.next.injEq] at h'
    refine .inr (.inl ⟨rfl, ?_⟩)
    split at h'
    · exact .inr h'.symm
    · exact .inl h'.symm
  | loadBias =>
    obtain ⟨⟨hp, -⟩, ht⟩ := execLoadBias_next_iff.mp h
    simp [hp, ht]
  | loadWeights co0 ci0 =>
    obtain ⟨⟨⟨hp, rfl, rfl, hco, hci⟩, -⟩, ht⟩ := execLoadWeights_next_iff.mp h
    exact .inr (.inr (.inr (.inl ⟨rfl, hp, hco, hci, ht⟩)))
  | pushRow y ci0 =>
    obtain ⟨⟨⟨hp, rfl, rfl, -, hy, hci⟩, -⟩, ht⟩ := execPushRow_next_iff.mp h
    exact .inr (.inr (.inr (.inr (.inl ⟨rfl, hp, hy, hci, ht⟩))))
  | buildWindow y x =>
    obtain ⟨⟨⟨hp, rfl, rfl⟩, hpix, -, -⟩, ht⟩ := execBuildWindow_next_iff.mp h
    exact .inr (.inr (.inr (.inr (.inr (.inl ⟨rfl, hp, hpix, ht⟩)))))
  | accumulate y x =>
    obtain ⟨⟨⟨hp, rfl, rfl⟩, hpix, -, -⟩, ht⟩ := execAccumulate_next_iff.mp h
    exact .inr (.inr (.inr (.inr (.inr (.inr (.inl ⟨rfl, hp, hpix, ht⟩))))))
  | requantizeWrite y x =>
    obtain ⟨⟨⟨hp, rfl, rfl⟩, hpix, hci, -, hsz, -⟩, ht⟩ := execRequantizeWrite_next_iff.mp h
    exact .inr (.inr (.inr (.inr (.inr (.inr (.inr (.inl ⟨rfl, hp, hpix, hci, hsz, ht⟩)))))))
  | finish =>
    obtain ⟨hp, ht⟩ := execFinish_next_iff.mp h
    exact .inr (.inr (.inr (.inr (.inr (.inr (.inr (.inr ⟨rfl, hp, ht⟩)))))))

end Sys2Proof.Machine
end

