-- ==== Sys2Proof/Laws/Memory.lean ====
section
/-! SUPPORT. Memory: a read after a write, and the canonical form. -/

namespace Sys2Proof.Machine

theorem cellsRead_write (cells : List Host.Cell) (a b : Nat) (v : I8)
    (h : (cells.map Prod.fst).Pairwise (· < ·)) :
    cellsRead (cellsWrite cells a v) b = if b = a then v else cellsRead cells b := by
  induction cells with
  | nil =>
    by_cases hv : v = Memory.unlisted <;> by_cases hb : b = a
    · simp [cellsWrite, cellsRead, hv]
    · simp [cellsWrite, cellsRead, hv]
    · simp [cellsWrite, cellsRead, hv, hb]
    · simp [cellsWrite, cellsRead, hv, hb, Ne.symm hb]
  | cons cell rest ih =>
    obtain ⟨c, u⟩ := cell
    simp only [List.map_cons, List.pairwise_cons, List.mem_map, forall_exists_index, and_imp] at h
    have below : ∀ n, n < c + 1 → cellsRead rest n = Memory.unlisted := by
      intro n hn
      have h1 := h.1
      clear ih h
      induction rest with
      | nil => rfl
      | cons cell' rest' ih' =>
        have hlt := h1 _ cell' (List.mem_cons_self ..) rfl
        have hne : cell'.1 ≠ n := by omega
        simp only [cellsRead, hne, if_false]
        exact ih' fun m e he hm => h1 m e (List.mem_cons_of_mem _ he) hm
    simp only [cellsWrite]
    split <;> rename_i hac
    · by_cases hv : v = Memory.unlisted
      · simp only [hv, if_true, cellsRead]
        by_cases hb : b = a
        · simp [hb, Nat.ne_of_gt hac, below a (by omega)]
        · simp [hb]
      · simp only [hv, if_false, cellsRead]
        by_cases hb : b = a
        · simp [hb]
        · simp [hb, Ne.symm hb]
    · split <;> rename_i hac'
      · subst hac'
        by_cases hv : v = Memory.unlisted
        · simp only [hv, if_true, cellsRead]
          by_cases hb : b = a
          · simp [hb, below a (by omega)]
          · simp [hb, Ne.symm hb]
        · simp only [hv, if_false, cellsRead]
          by_cases hb : b = a
          · simp [hb]
          · simp [hb, Ne.symm hb]
      · simp only [cellsRead, ih h.2]
        by_cases hb : b = a
        · subst hb; simp [Ne.symm hac']
        · simp [hb]

/-- A read after a write of one byte (`00_scope.md` R12). -/
theorem Memory.read_write (m : Memory) (a b : Nat) (v : I8) (h : (m.cells.map Prod.fst).Pairwise (· < ·)) :
    (m.write a v).read b = if b = a then v else m.read b := cellsRead_write m.cells a b v h

theorem mem_cellsWrite {cells : List Host.Cell} {a : Nat} {v : I8} {e : Host.Cell} (h : e ∈ cellsWrite cells a v) :
    (e = (a, v) ∧ v ≠ Memory.unlisted) ∨ e ∈ cells := by
  induction cells with
  | nil =>
    by_cases hv : v = Memory.unlisted
    · simp [cellsWrite, hv] at h
    · simp [cellsWrite, hv] at h; exact .inl ⟨h, hv⟩
  | cons cell rest ih =>
    obtain ⟨c, u⟩ := cell
    simp only [cellsWrite] at h
    by_cases hv : v = Memory.unlisted
    · simp only [hv, if_true] at h ih ⊢
      split at h
      · exact .inr h
      · split at h
        · exact .inr (List.mem_cons_of_mem _ h)
        · rcases List.mem_cons.mp h with rfl | h
          · exact .inr (List.mem_cons_self ..)
          · exact (ih h).imp id (List.mem_cons_of_mem _)
    · simp only [hv, if_false] at h
      split at h
      · rcases List.mem_cons.mp h with rfl | h
        · exact .inl ⟨rfl, hv⟩
        · exact .inr h
      · split at h
        · rcases List.mem_cons.mp h with rfl | h
          · exact .inl ⟨rfl, hv⟩
          · exact .inr (List.mem_cons_of_mem _ h)
        · rcases List.mem_cons.mp h with rfl | h
          · exact .inr (List.mem_cons_self ..)
          · exact (ih h).imp id (List.mem_cons_of_mem _)

theorem cellsWrite_rising (cells : List Host.Cell) (a : Nat) (v : I8) (h : (cells.map Prod.fst).Pairwise (· < ·)) :
    ((cellsWrite cells a v).map Prod.fst).Pairwise (· < ·) := by
  induction cells with
  | nil => by_cases hv : v = Memory.unlisted <;> simp [cellsWrite, hv]
  | cons cell rest ih =>
    obtain ⟨c, u⟩ := cell
    have hrest := (List.pairwise_cons.mp h).2
    have hc : ∀ e ∈ rest, c < e.1 := fun e he => (List.pairwise_cons.mp h).1 e.1 (List.mem_map_of_mem he)
    simp only [cellsWrite]
    split <;> rename_i hac
    · split
      · exact h
      · simp only [List.map_cons, List.pairwise_cons, List.mem_cons, forall_eq_or_imp]
        refine ⟨⟨hac, fun b hb => ?_⟩, List.pairwise_cons.mp h⟩
        obtain ⟨e, he, rfl⟩ := List.mem_map.mp hb
        exact hac.trans (hc e he)
    · split <;> rename_i hac'
      · split
        · exact hrest
        · subst hac'
          simpa using h
      · simp only [List.map_cons, List.pairwise_cons]
        refine ⟨fun b hb => ?_, ih hrest⟩
        obtain ⟨e, he, rfl⟩ := List.mem_map.mp hb
        rcases mem_cellsWrite he with ⟨rfl, -⟩ | he
        · simp only; omega
        · exact hc e he

/-- A write inside the buffer keeps the canonical form. -/
theorem Memory.write_wf {m : Memory} {a : Nat} {v : I8} (h : m.wf) (ha : a < m.size) : (m.write a v).wf := by
  refine ⟨cellsWrite_rising _ _ _ h.1, fun e he => ?_, fun e he => ?_⟩
  · rcases mem_cellsWrite he with ⟨rfl, hv⟩ | he
    · exact hv
    · exact h.2.1 e he
  · rcases mem_cellsWrite he with ⟨rfl, -⟩ | he
    · exact ha
    · exact h.2.2 e he

@[simp] theorem Memory.write_size (m : Memory) (a : Nat) (v : I8) : (m.write a v).size = m.size := rfl

@[simp] theorem Memory.writeAll_size (m : Memory) (l : List (Nat × I8)) : (m.writeAll l).size = m.size := by
  induction l generalizing m with
  | nil => rfl
  | cons e l ih => exact (ih _).trans rfl

/-- Writes inside the buffer keep the canonical form. -/
theorem Memory.writeAll_wf {m : Memory} {l : List (Nat × I8)} (h : m.wf) (hl : ∀ e ∈ l, e.1 < m.size) :
    (m.writeAll l).wf := by
  induction l generalizing m with
  | nil => exact h
  | cons e l ih =>
    exact ih (Memory.write_wf h (hl e (List.mem_cons_self ..))) fun e' he' => hl e' (List.mem_cons_of_mem _ he')

/-- Writes leave every offset they do not name as it was, in any memory. -/
theorem cellsRead_write_ne (cells : List Host.Cell) {a b : Nat} (v : I8) (hne : b ≠ a) :
    cellsRead (cellsWrite cells a v) b = cellsRead cells b := by
  induction cells with
  | nil => by_cases hv : v = Memory.unlisted <;> simp [cellsWrite, cellsRead, hv, Ne.symm hne]
  | cons cell rest ih =>
    obtain ⟨c, u⟩ := cell
    simp only [cellsWrite]
    split
    · split <;> simp [cellsRead, Ne.symm hne]
    · split <;> rename_i hac
      · subst hac
        split <;> simp [cellsRead, Ne.symm hne]
      · simp [cellsRead, ih]

theorem Memory.writeAll_read_other (m : Memory) (l : List (Nat × I8)) (a : Nat) (h : ∀ e ∈ l, a ≠ e.1) :
    (m.writeAll l).read a = m.read a := by
  induction l generalizing m with
  | nil => rfl
  | cons e l ih =>
    refine (ih _ fun e' he' => h e' (List.mem_cons_of_mem _ he')).trans ?_
    exact cellsRead_write_ne _ _ (h e (List.mem_cons_self ..))

@[simp] theorem Memory.ofBytes_size (bytes : List I8) : (Memory.ofBytes bytes).size = bytes.length :=
  Memory.writeAll_size _ _

/-- A new buffer is in canonical form. -/
theorem Memory.ofBytes_wf (bytes : List I8) : (Memory.ofBytes bytes).wf := by
  refine Memory.writeAll_wf (by simp [Memory.wf]) fun e he => ?_
  obtain ⟨p, hp, rfl⟩ := List.mem_map.mp he
  simpa using (List.mem_zipIdx hp).2.1

/-- A buffer with nothing listed is in canonical form. -/
theorem Memory.empty_wf (n : Nat) : (Memory.mk n []).wf := by simp [Memory.wf]

/-- The four memories after reset are in canonical form. -/
theorem State.resetOf_space_wf (c : Config) (sp : Space) : ((State.resetOf c).space sp).wf := by
  cases sp <;> exact Memory.empty_wf _

/-- Lanes written side by side are read back. -/
theorem Memory.writeAll_read_lane (m : Memory) (h : (m.cells.map Prod.fst).Pairwise (· < ·)) (b : Nat) (v : Nat → I8)
    {n co : Nat} (hco : co < n) : (m.writeAll (tab n fun c => (b + c, v c))).read (b + co) = v co := by
  have gen : ∀ (l : List Nat) (m : Memory), (m.cells.map Prod.fst).Pairwise (· < ·) → co ∈ l →
      (m.writeAll (l.map fun c => (b + c, v c))).read (b + co) = v co := by
    intro l
    induction l with
    | nil => simp
    | cons c l ih =>
      intro m hm hmem
      simp only [List.map_cons, Memory.writeAll]
      by_cases hc : co ∈ l
      · exact ih _ (cellsWrite_rising _ _ _ hm) hc
      · obtain rfl : co = c := by simpa [hc] using hmem
        rw [Memory.writeAll_read_other, Memory.read_write _ _ _ _ hm, if_pos rfl]
        intro e he
        obtain ⟨c', hc', rfl⟩ := List.mem_map.mp he
        have : co ≠ c' := fun hh => hc (hh ▸ hc')
        simp only; omega
  exact gen _ m h (List.mem_range.mpr hco)

/-- The bytes of a little-endian word (`20_memory.md` R66). -/
theorem Memory.read32_toNat (m : Memory) (a : Nat) :
    (m.read32 a).toNat = (m.read a).toNat + 2 ^ 8 * (m.read (a + 1)).toNat + 2 ^ 16 * (m.read (a + 2)).toNat +
      2 ^ 24 * (m.read (a + 3)).toNat := by
  have h0 := (m.read a).isLt
  have h1 := (m.read (a + 1)).isLt
  have h2 := (m.read (a + 2)).isLt
  have h3 := (m.read (a + 3)).isLt
  unfold Memory.read32
  rw [BitVec.toNat_append, BitVec.toNat_append, BitVec.toNat_append]
  rw [← Nat.shiftLeft_add_eq_or_of_lt (b := (m.read (a + 2)).toNat) (by omega)]
  rw [← Nat.shiftLeft_add_eq_or_of_lt (by omega), ← Nat.shiftLeft_add_eq_or_of_lt (by omega)]
  simp only [Nat.shiftLeft_eq]; omega

/-- The bytes of a new buffer. -/
theorem Memory.ofBytes_read (bytes : List I8) {a : Nat} {v : I8} (h : bytes[a]? = some v) :
    (Memory.ofBytes bytes).read a = v := by
  have gen : ∀ (l : List I8) (n : Nat) (m : Memory), (m.cells.map Prod.fst).Pairwise (· < ·) → ∀ j : Nat, l[j]? = some v →
      (m.writeAll ((l.zipIdx n).map fun p => (p.2, p.1))).read (n + j) = v := by
    intro l
    induction l with
    | nil => simp
    | cons b l ih =>
      intro n m hm j hj
      simp only [List.zipIdx_cons, List.map_cons, Memory.writeAll]
      cases j with
      | zero =>
        rw [Memory.writeAll_read_other, Memory.read_write _ _ _ _ hm, if_pos (Nat.add_zero n)]
        · simpa using hj
        · intro e he
          obtain ⟨p, hp, rfl⟩ := List.mem_map.mp he
          have := (List.mem_zipIdx hp).1
          simp only; omega
      | succ j =>
        have := ih (n + 1) (m.write n b) (cellsWrite_rising _ _ _ hm) j (by simpa using hj)
        rwa [show n + 1 + j = n + (j + 1) by omega] at this
  have := gen bytes 0 ⟨bytes.length, []⟩ List.Pairwise.nil a h
  rwa [Nat.zero_add] at this

end Sys2Proof.Machine
end

