-- ==== Sys2Proof/Laws/PerInstr.lean ====
section
/-! SUPPORT. A law of the encoding, per operation: the top four bits of an operation's word are its opcode, whatever its
operands (`30_encoding.md` R93, R97). -/

namespace Sys2Proof.Laws.Opcode

/-- The opcode of an operation (`30_encoding.md` R97); a host operation has none. -/
def opcodeOf : Instr → Nat
  | .start => 0
  | .waitDone => 0
  | .loadBias => 1
  | .loadWeights _ _ => 2
  | .pushRow _ _ => 3
  | .buildWindow _ _ => 4
  | .accumulate _ _ => 5
  | .requantizeWrite _ _ => 6
  | .finish => 7

/-- An operation that has a word has its own opcode in the word's top four bits. -/
def Statement (i : Instr) : Prop :=
  ∀ w, encode i = some w → wordOp w = opcodeOf i

theorem packed {op a b : Nat} {i : Instr} (ho : op < 16) (hop : opcodeOf i = op) (he : fieldWord i = some (packWord op a b))
    (hf : i.wf = true → a < 2 ^ 14 ∧ b < 2 ^ 14) : Statement i := by
  intro w hw
  obtain ⟨hwf, hw⟩ := encode_eq_some.mp hw
  obtain ⟨ha, hb⟩ := hf hwf
  obtain rfl : packWord op a b = w := Option.some.inj (he.symm.trans hw)
  have := packWord_toNat ho ha hb
  unfold wordOp
  omega

theorem start : Statement .start := fun _ h => nomatch h

theorem waitDone : Statement .waitDone := fun _ h => nomatch h

theorem loadBias : Statement .loadBias := packed (by decide) rfl rfl fun _ => by decide

theorem loadWeights (co0 ci0 : Nat) : Statement (.loadWeights co0 ci0) :=
  packed (op := 2) (by decide) rfl rfl fun h => by simpa [Instr.wf, fitsField] using h

theorem pushRow (y ci0 : Nat) : Statement (.pushRow y ci0) :=
  packed (op := 3) (by decide) rfl rfl fun h => by simpa [Instr.wf, fitsField] using h

theorem buildWindow (y x : Nat) : Statement (.buildWindow y x) :=
  packed (op := 4) (by decide) rfl rfl fun h => by simpa [Instr.wf, fitsField] using h

theorem accumulate (y x : Nat) : Statement (.accumulate y x) :=
  packed (op := 5) (by decide) rfl rfl fun h => by simpa [Instr.wf, fitsField] using h

theorem requantizeWrite (y x : Nat) : Statement (.requantizeWrite y x) :=
  packed (op := 6) (by decide) rfl rfl fun h => by simpa [Instr.wf, fitsField] using h

theorem finish : Statement .finish := packed (by decide) rfl rfl fun _ => by decide

end Sys2Proof.Laws.Opcode
end

