-- ==== Sys2Proof/Laws/Step.lean ====
section
/-! SUPPORT. What a step can do, of any agent, said once. -/

namespace Sys2Proof.Machine

/-- A position names engine operations only. -/
theorem Pos.instr_hasWord {p : Pos} {i : Instr} (h : p.instr = some i) : i.hasWord = true := by
  unfold Pos.instr at h
  split at h <;> simp only [Option.some.injEq, reduceCtorEq] at h <;> subst h <;> rfl

theorem Pos.instr_none_iff (p : Pos) : p.instr = none ↔ p.phase = .idle := by
  unfold Pos.instr
  split <;> simp_all

/-- The engine's step: an operation, the acceptance of `START`, or a wait. -/
theorem engineMove_cases {s t : State} (h : engineMove s = .next t) :
    (∃ i, s.pc.instr = some i ∧ exec i s = .next t) ∨ (s.pc.phase = .idle ∧ s.start = true ∧ t = s.accepted) ∨
      (s.pc.phase = .idle ∧ s.start = false ∧ t = s) := by
  unfold engineMove at h
  split at h <;> rename_i hi
  · have hp := (Pos.instr_none_iff _).mp hi
    split at h <;> rename_i hs <;> simp only [Host.Outcome.next.injEq] at h
    · exact .inr (.inl ⟨hp, hs, h.symm⟩)
    · exact .inr (.inr ⟨hp, by simpa using hs, h.symm⟩)
  · exact .inl ⟨_, hi, h⟩

/-- A step: the engine's, the host's, the driver's, or the reset event, with the agenda as it was or one turn shorter. -/
theorem step_cases {s t : State} (h : step s = .next t) :
    ∃ a : List Turn, (a = s.agenda ∨ a = s.agenda.tail) ∧
      (engineMove { s with agenda := a } = .next t ∨ (∃ m, hostMove m { s with agenda := a } = .next t) ∨
        (∃ w i, decode w = .ok i ∧ exec i { s with agenda := a, pc := s.pc.placedAt i } = .next t) ∨
        t = ({ s with agenda := a } : State).resetEvent) := by
  unfold step takeTurn at h
  split at h <;> rename_i ha
  · exact ⟨s.agenda, .inl rfl, .inl h⟩
  · exact ⟨_, .inr (by rw [ha, List.tail_cons]), .inl h⟩
  · split at h
    · exact ⟨s.agenda, .inl rfl, .inl h⟩
    · exact ⟨_, .inr (by rw [ha, List.tail_cons]), .inr (.inl ⟨_, h⟩)⟩
  · refine ⟨_, .inr (by rw [ha, List.tail_cons]), .inr (.inr (.inl ?_))⟩
    unfold driverMove at h
    split at h
    · exact ⟨_, _, by assumption, h⟩
    · simp at h
  · simp only [Host.Outcome.next.injEq] at h
    exact ⟨_, .inr (by rw [ha, List.tail_cons]), .inr (.inr (.inr h.symm))⟩

/-- The host's step: an operation, a reference, a memory, or a value read. -/
theorem hostMove_cases {m : HostMove} {s t : State} (h : hostMove m s = .next t) :
    (∃ i, (i = .start ∨ i = .waitDone) ∧ exec i s = .next t) ∨ (∃ sp r, t = s.withRef sp r) ∨
      (∃ sp bytes, t = s.withSpace sp (Memory.ofBytes bytes)) ∨
      (∃ sp a v, a < (s.space sp).size ∧ t = s.withSpace sp ((s.space sp).write a v)) ∨ ∃ v, t = s.sees v := by
  cases m with
  | start => exact .inl ⟨_, .inl rfl, h⟩
  | waitDone => exact .inl ⟨_, .inr rfl, h⟩
  | setRef sp n => exact .inr (.inl ⟨_, _, (checked_next_iff.mp h).2⟩)
  | provide sp bytes => exact .inr (.inr (.inl ⟨_, _, (checked_next_iff.mp h).2⟩))
  | write sp a v =>
    have h' := (checked_eq_next.mp h).2
    split at h' <;> simp only [Host.Outcome.next.injEq, reduceCtorEq] at h'
    exact .inr (.inr (.inr (.inl ⟨sp, a, v, by assumption, h'.symm⟩)))
  | read sp a =>
    have h' := (checked_eq_next.mp h).2
    split at h' <;> simp only [Host.Outcome.next.injEq, reduceCtorEq] at h'
    exact .inr (.inr (.inr (.inr ⟨_, h'.symm⟩)))
  | readRef sp => exact .inr (.inr (.inr (.inr ⟨_, (checked_next_iff.mp h).2⟩)))

end Sys2Proof.Machine
end

