-- ==== Sys2Proof/Laws/Tables.lean ====
section
/-! SUPPORT. Tables filled by an index function, their elements, and sums. -/

namespace Sys2Proof

@[simp] theorem tab_length {α : Type} (n : Nat) (f : Nat → α) : (tab n f).length = n := by simp [tab]

theorem tab_getElem? {α : Type} (n : Nat) (f : Nat → α) (i : Nat) :
    (tab n f)[i]? = if i < n then some (f i) else none := by
  unfold tab
  split <;> rename_i h
  · simp [h]
  · simp [Nat.not_lt.mp h]

theorem tab_at {α : Type} {n : Nat} {f : Nat → α} {i : Nat} (h : i < n) : (tab n f)[i]? = some (f i) := by
  rw [tab_getElem?, if_pos h]

theorem row_tab {α : Type} {n : Nat} {f : Nat → List α} {i : Nat} (h : i < n) : row (tab n f) i = f i := by
  rw [row, tab_getElem?, if_pos h, Option.getD_some]

@[simp] theorem row_nil {α : Type} (i : Nat) : row ([] : List (List α)) i = [] := by simp [row]

/-- The spec's mathematical sums are Mathlib's. -/
theorem sumTo_eq_sum (n : Nat) (f : Nat → Int) : sumTo n f = ∑ i ∈ Finset.range n, f i := by
  induction n with
  | zero => rfl
  | succ n ih => rw [Finset.sum_range_succ, ← ih]; rfl

theorem sumTo_congr {n : Nat} {f g : Nat → Int} (h : ∀ i, i < n → f i = g i) : sumTo n f = sumTo n g := by
  rw [sumTo_eq_sum, sumTo_eq_sum]
  exact Finset.sum_congr rfl fun i hi => h i (Finset.mem_range.mp hi)

theorem sumTo_add (m n : Nat) (f : Nat → Int) : sumTo (m + n) f = sumTo m f + sumTo n fun i => f (m + i) := by
  simp only [sumTo_eq_sum, Finset.sum_range_add]

/-- The order of nested sums does not matter. -/
theorem sumTo_comm (m n : Nat) (f : Nat → Nat → Int) :
    (sumTo m fun i => sumTo n fun j => f i j) = sumTo n fun j => sumTo m fun i => f i j := by
  simp only [sumTo_eq_sum]
  exact Finset.sum_comm

end Sys2Proof

namespace Sys2Proof.Machine

/-! ### Elements after the operation that writes them -/

theorem State.biasLoaded_biasAt (s : State) {i : Nat} (h : i < s.cfg.cout) :
    s.biasLoaded.biasAt i = some (s.biasWord i) := tab_at h

theorem State.weightsLoaded_wbufAt (s : State) (co0 ci0 : Nat) {co ci ky kx : Nat} (hco : co < s.cfg.coTile)
    (hci : ci < s.cfg.ciTile) (hky : ky < s.cfg.k) (hkx : kx < s.cfg.k) :
    (s.weightsLoaded co0 ci0).wbufAt co ci ky kx = some (s.weightAt (co0 + co) (ci0 + ci) ky kx) := by
  simp only [State.wbufAt, State.weightsLoaded, row_tab hco, row_tab hci, row_tab hky, tab_at hkx]

theorem State.rowPushed_lineAt_slot (s : State) (y ci0 : Nat) {x ci : Nat} (hr : s.rowPtr < s.cfg.k) (hx : x < s.cfg.w)
    (hci : ci < s.cfg.ciTile) :
    (s.rowPushed y ci0).lineAt s.rowPtr x ci = some (s.inputAt y x (ci0 + ci)) := by
  simp only [State.lineAt, State.rowPushed, row_tab hr, if_pos, State.inputRow, row_tab hx, tab_at hci]

theorem State.rowPushed_lineAt_other (s : State) (y ci0 x ci : Nat) {r : Nat} (hr : r < s.cfg.k) (hne : r ≠ s.rowPtr) :
    (s.rowPushed y ci0).lineAt r x ci = s.lineAt r x ci := by
  simp only [State.lineAt, State.rowPushed, row_tab hr, if_neg hne]

theorem State.windowBuilt_windowAt (s : State) (y x : Nat) {ky kx ci : Nat} (hky : ky < s.cfg.k) (hkx : kx < s.cfg.k)
    (hci : ci < s.cfg.ciTile) :
    (s.windowBuilt y x).windowAt ky kx ci = some ((s.windowSource x ky kx ci).getD 0) := by
  simp only [State.windowAt, State.windowBuilt, row_tab hky, row_tab hkx, tab_at hci]

theorem State.accumulated_accAt_same (s : State) (y x : Nat) {co : Nat} (hy : s.cfg.outCoord y < s.cfg.oh)
    (hx : s.cfg.outCoord x < s.cfg.ow) (hco : co < s.cfg.coTile) :
    (s.accumulated y x).accAt (s.cfg.outCoord y) (s.cfg.outCoord x) co =
      some (s.laneResult (s.cfg.outCoord y) (s.cfg.outCoord x) co) := by
  simp only [State.accAt, State.accumulated, State.withBank, row_tab hy, row_tab hx, if_pos, and_self, tab_at hco]

theorem State.accumulated_accAt_other (s : State) (y x : Nat) {r q : Nat} (co : Nat) (hr : r < s.cfg.oh) (hq : q < s.cfg.ow)
    (hne : ¬(r = s.cfg.outCoord y ∧ q = s.cfg.outCoord x)) :
    (s.accumulated y x).accAt r q co = s.accAt r q co := by
  simp only [State.accAt, State.accumulated, State.withBank, row_tab hr, row_tab hq, if_neg hne]

theorem State.accumulated_accTagAt_same (s : State) (y x : Nat) (hy : s.cfg.outCoord y < s.cfg.oh)
    (hx : s.cfg.outCoord x < s.cfg.ow) :
    (s.accumulated y x).accTagAt (s.cfg.outCoord y) (s.cfg.outCoord x) =
      some ⟨s.pc.co0, s.pc.ci0 + s.cfg.ciTile⟩ := by
  simp only [State.accTagAt, State.accumulated, State.withBankTag, row_tab hy, tab_at hx, and_self, if_pos,
    Option.getD_some]

theorem State.accumulated_accTagAt_other (s : State) (y x : Nat) {r q : Nat} (hr : r < s.cfg.oh) (hq : q < s.cfg.ow)
    (hne : ¬(r = s.cfg.outCoord y ∧ q = s.cfg.outCoord x)) :
    (s.accumulated y x).accTagAt r q = s.accTagAt r q := by
  simp only [State.accTagAt, State.accumulated, State.withBankTag, row_tab hr, tab_at hq, if_neg hne, Option.getD_some]

end Sys2Proof.Machine
end

