-- ==== Sys2Proof/Tests/Slice0.lean ====
section
/-! SUPPORT. Tests: expected values are the spec's (`95_test_vectors.md`) or computed by hand from its rules; and for every
statement with hypotheses a concrete case that meets them (`test_witness_…`). -/

namespace Sys2Proof.Machine

/-! ### Helpers -/

def asBytes (l : List Int) : List I8 := l.map (BitVec.ofInt 8)

def asInts (l : List I8) : List Int := l.map BitVec.toInt

/-- The result is a next state with the property. -/
def goesTo (r : Result) (p : State → Bool) : Bool :=
  match r with
  | .next t => p t
  | .fault _ => false
  | .refused _ => false

/-- The result is this refusal. -/
def stopsWith (r : Result) (e : Refusal) : Bool :=
  match r with
  | .next _ => false
  | .fault _ => false
  | .refused e' => decide (e' = e)

theorem goesTo_exists {r : Result} {p : State → Bool} (h : goesTo r p = true) : ∃ t, r = .next t := by
  cases r with
  | next t => exact ⟨t, rfl⟩
  | fault f => exact absurd h (by simp [goesTo])
  | refused e => exact absurd h (by simp [goesTo])

/-- The instance of program P1 (`95_test_vectors.md` 3.1). -/
def cfg1 : Config := { h := 3, w := 3, cin := 1, cout := 1, k := 3, ciTile := 1, coTile := 1, valid := by decide }

/-- The instance of program P2 (`95_test_vectors.md` 3.2). -/
def cfg2 : Config := { h := 4, w := 4, cin := 2, cout := 2, k := 3, ciTile := 1, coTile := 1, valid := by decide }

/-- Program P2's sizes with one tile pair. -/
def cfg2Whole : Config := { h := 4, w := 4, cin := 2, cout := 2, k := 3, ciTile := 2, coTile := 2, valid := by decide }

/-- A one-pixel, one-tap instance. -/
def cfgTiny : Config := { h := 1, w := 1, cin := 1, cout := 1, k := 1, ciTile := 1, coTile := 1, valid := by decide }

/-- The shipped sizes with the tile sizes of `95_test_vectors.md` 2.4. -/
def cfg32x16 : Config :=
  { h := 26, w := 26, cin := 128, cout := 128, k := 3, ciTile := 32, coTile := 16, valid := by decide }

/-- References written, no run in progress. -/
def readyOf (c : Config) : State :=
  { State.resetOf c with inRef := ⟨1, true⟩, outRef := ⟨2, true⟩, wgtRef := ⟨3, true⟩, biasRef := ⟨4, true⟩ }

/-- A pending `START`. -/
def pendingOf (c : Config) : State := { readyOf c with start := true, duty := .awaiting }

/-- At a position, the rest as in `readyOf`. -/
def atPos (c : Config) (p : Pos) : State := { readyOf c with pc := p }

/-- Program P2's input bytes by index (`95_test_vectors.md` 3.2). -/
def p2In (i : Nat) : Int := ((i * 37 % 255 : Nat) : Int) - 127

/-- Program P2's weight bytes by index. -/
def p2Wgt (i : Nat) : Int := ((i * 29 % 255 : Nat) : Int) - 127

def p2InMem : Memory := Memory.ofBytes (asBytes (tab 32 p2In))

def p2WgtMem : Memory := Memory.ofBytes (asBytes (tab 36 p2Wgt))

/-- Before `PUSH_ROW 3, 0` of program P2: slots 0, 1, 2 hold rows 0, 1, 2 (`95_test_vectors.md` 2.5). -/
def p2BeforeRow3 : State :=
  { atPos cfg2 ⟨.pushRow, 0, 0, 3, 2⟩ with
    inMem := p2InMem
    rowsPushed := some ⟨0, 3⟩
    lineBuf := [[[-127], [-53], [21], [95]], [[-86], [-12], [62], [-119]], [[-45], [29], [103], [-78]]] }

/-- Before `BUILD_WINDOW 3, 2`: the ring wrapped, `ROW_PTR = 1` (`95_test_vectors.md` 2.6). -/
def p2BeforeWindow : State :=
  { atPos cfg2 ⟨.buildWindow, 0, 0, 3, 2⟩ with
    rowsPushed := some ⟨0, 4⟩
    rowPtr := 1
    lineBuf := [[[-4], [70], [-111], [-37]], [[-86], [-12], [62], [-119]], [[-45], [29], [103], [-78]]] }

/-- Before `ACCUMULATE 3, 2` on the first tile (`95_test_vectors.md` 2.7). -/
def p2BeforeMac : State :=
  { atPos cfg2 ⟨.accumulate, 0, 0, 3, 2⟩ with
    bias := [300, -20000]
    biasValid := true
    wbufTag := some ⟨0, 0⟩
    windowTag := some ⟨0, 3, 2⟩
    wbuf := [[[[-127, -98, -69], [-40, -11, 18], [47, 76, 105]]]]
    window := [[[-86], [-12], [62]], [[-45], [29], [103]], [[-4], [70], [-111]]] }

/-- Before `ACCUMULATE 3, 2` on the last tile: the bank holds 4932, the tile's sum is -3117 (`95_test_vectors.md` 2.7);
here by one tap, `-3117 = -57·54 - 39·1`. -/
def p2BeforeMac2 : State :=
  { atPos cfg2 ⟨.accumulate, 0, 1, 3, 2⟩ with
    bias := [300, -20000]
    biasValid := true
    wbufTag := some ⟨0, 1⟩
    windowTag := some ⟨1, 3, 2⟩
    wbuf := [[[[54, 1, 0], [0, 0, 0], [0, 0, 0]]]]
    window := [[[-57], [-39], [0]], [[0], [0], [0]], [[0], [0], [0]]]
    acc := [[[0], [0]], [[4932], [0]]]
    accTag := [[none, none], [some ⟨0, 1⟩, none]] }

/-- Before `REQUANTIZE_WRITE 2, 3` with `CO0 = 1`, `ACC[0][1][0] = -33644` (`95_test_vectors.md` 2.8). -/
def p2BeforeWrite : State :=
  { atPos cfg2 ⟨.requantizeWrite, 1, 1, 2, 3⟩ with
    acc := [[[0], [-33644]], [[0], [0]]]
    accTag := [[none, some ⟨1, 2⟩], [none, none]] }

/-! ### Well-formedness, validity, ranges: an ill-formed term for each check -/

theorem test_wf_fields : Instr.wf (.loadWeights 16383 16383) = true ∧ Instr.wf (.loadWeights 16384 0) = false ∧
    Instr.wf (.loadWeights 0 16384) = false ∧ Instr.wf (.pushRow 16384 0) = false ∧ Instr.wf (.pushRow 0 16384) = false ∧
    Instr.wf (.buildWindow 16384 0) = false ∧ Instr.wf (.buildWindow 0 16384) = false ∧
    Instr.wf (.accumulate 16384 0) = false ∧ Instr.wf (.accumulate 0 16384) = false ∧
    Instr.wf (.requantizeWrite 16384 0) = false ∧ Instr.wf (.requantizeWrite 0 16384) = false := by decide

theorem test_hasWord_host : Instr.hasWord .start = false ∧ Instr.hasWord .waitDone = false := by decide

/-- `CI_TILE = 48` does not divide 128 (`95_test_vectors.md` N-P4), and one violation of each condition of R6. -/
theorem test_config_invalid : ¬Dims.Valid ⟨26, 26, 128, 128, 3, 48, 16⟩ ∧ ¬Dims.Valid ⟨26, 26, 128, 128, 3, 32, 48⟩ ∧
    ¬Dims.Valid ⟨3, 3, 1, 1, 0, 1, 1⟩ ∧ ¬Dims.Valid ⟨2, 3, 1, 1, 3, 1, 1⟩ ∧ ¬Dims.Valid ⟨3, 2, 1, 1, 3, 1, 1⟩ := by decide

theorem test_config_invalid_counts : ¬Dims.Valid ⟨3, 3, 1, 1, 3, 0, 1⟩ ∧ ¬Dims.Valid ⟨3, 3, 1, 1, 3, 1, 0⟩ ∧ ¬Dims.Valid ⟨3, 3, 0, 1, 3, 1, 1⟩ ∧
    ¬Dims.Valid ⟨3, 3, 1, 0, 3, 1, 1⟩ := by decide

theorem test_inRange : Instr.inRange cfg32x16 (.loadWeights 112 96) = true ∧
    Instr.inRange cfg32x16 (.loadWeights 120 96) = false ∧ Instr.inRange cfg32x16 (.loadWeights 128 0) = false ∧
    Instr.inRange cfg32x16 (.loadWeights 0 16) = false ∧ Instr.inRange cfg32x16 (.pushRow 26 0) = false ∧
    Instr.inRange cfg32x16 (.pushRow 0 128) = false ∧ Instr.inRange cfg32x16 (.buildWindow 26 2) = false ∧
    Instr.inRange cfg32x16 (.buildWindow 2 1) = false ∧ Instr.inRange cfg32x16 (.accumulate 26 2) = false ∧
    Instr.inRange cfg32x16 (.accumulate 2 26) = false ∧ Instr.inRange cfg32x16 (.requantizeWrite 26 2) = false ∧
    Instr.inRange cfg32x16 (.requantizeWrite 2 26) = false := by decide

/-! ### Decoding: words written out field by field from `30_encoding.md` R93 and R97 (opcode, `a`, `b`) -/

theorem test_decode_loadBias :
    decode 0b0001_00000000000000_00000000000000#32 = .ok .loadBias := by decide

/-- `a` is `CO0 = 112`, `b` is `CI0 = 96`. -/
theorem test_decode_loadWeights :
    decode 0b0010_00000001110000_00000001100000#32 = .ok (.loadWeights 112 96) := by decide

/-- `a` is `Y = 25`, `b` is `CI0 = 96`. -/
theorem test_decode_pushRow :
    decode 0b0011_00000000011001_00000001100000#32 = .ok (.pushRow 25 96) := by decide

/-- `a` is `Y = 4`, `b` is `X = 2`. -/
theorem test_decode_buildWindow :
    decode 0b0100_00000000000100_00000000000010#32 = .ok (.buildWindow 4 2) := by decide

theorem test_decode_accumulate :
    decode 0b0101_00000000011001_00000000001111#32 = .ok (.accumulate 25 15) := by decide

theorem test_decode_requantizeWrite :
    decode 0b0110_11111111111111_00000000000011#32 = .ok (.requantizeWrite 16383 3) := by decide

theorem test_decode_finish :
    decode 0b0111_00000000000000_00000000000000#32 = .ok .finish := by decide

/-- Reserved words (`30_encoding.md` R98), by name. -/
theorem test_decode_reserved : decode 0#32 = .error (.reservedOpcode 0) ∧ decode 0xF0000000#32 = .error (.reservedOpcode 15) ∧
    decode 0x10000001#32 = .error (.nonzeroOperand 1) ∧ decode 0x10004000#32 = .error (.nonzeroOperand 1) ∧
    decode 0x70000001#32 = .error (.nonzeroOperand 7) := by decide

/-- The words of `95_test_vectors.md` 2.1. -/
theorem test_encode_printed : encode (.loadWeights 112 96) = some 0x201C0060 ∧ encode (.pushRow 25 96) = some 0x30064060 ∧
    encode (.buildWindow 4 2) = some 0x40010002 ∧ encode (.accumulate 25 25) = some 0x50064019 ∧
    encode (.requantizeWrite 2 3) = some 0x60008003 ∧ encode .finish = some 0x70000000 ∧ encode .start = none := by decide

/-- `30_encoding.md` R94: an operand past its field has no word. -/
theorem test_encode_unfit : encode (.pushRow 16384 0) = none ∧ encode (.buildWindow 0 16384) = none ∧
    encode (.pushRow 16383 0) = some 0x3FFFC000 := by decide

theorem test_decodeTableWord : decodeTableWord 32 0x3000C001 = some (.pushRow 3 1) ∧
    decodeTableWord 32 0x80000000 = none ∧ decodeTableWord 64 0x3000C001 = none := by decide

/-- A word placed with `withFetchWord` is the operation the very next step runs. -/
theorem test_withFetchWord_loadBias : goesTo (step (State.withFetchWord (State.resetOf cfg2) 32 0x10000000))
    (fun t => t.biasValid && decide (t.pc.phase = .loadWeights)) = true := by decide

/-- `30_encoding.md` R101 and `95_test_vectors.md` 3.1. -/
theorem test_traceLine : traceLine (.pushRow 3 1) = "PUSH_ROW 3, 1" ∧ traceLine .finish = "FINISH" := by decide

/-! ### Index formulas (`95_test_vectors.md` 2.2) -/

theorem test_offsets : cfg32x16.inIdx 5 7 32 = 17568 ∧ cfg32x16.inIdx 25 25 127 = 86527 ∧
    cfg32x16.wgtIdx 16 32 1 2 = 18725 ∧ cfg32x16.wgtIdx 127 127 2 2 = 147455 ∧ biasIdx 127 = 508 ∧
    cfg32x16.outIdx 11 7 64 = 34752 ∧ cfg32x16.outIdx 23 23 127 = 73727 := by decide

/-! ### The operations, one step each -/

theorem test_start : goesTo (execStart (readyOf cfg1)) (fun t => t.start) = true ∧
    stopsWith (execStart (State.resetOf cfg1)) .b6Buffer = true ∧
    stopsWith (execStart (atPos cfg1 ⟨.pushRow, 0, 0, 1, 2⟩)) .b9StartBusy = true := by decide

/-- `95_test_vectors.md` 2.9, the acceptance, after an earlier run. -/
theorem test_start_accepted : goesTo (step { pendingOf cfg1 with done := true })
    (fun t => !t.start && !t.done && decide (t.pc = ⟨.loadBias, 0, 0, 0, 2⟩)) = true := by decide

theorem test_waitDone : goesTo (execWaitDone { readyOf cfg1 with done := true, duty := .awaiting })
    (fun t => t.hostMayReadOut && t.done) = true ∧
    goesTo (execWaitDone (pendingOf cfg1)) (fun t => !t.hostMayReadOut) = true := by decide

/-- `95_test_vectors.md` 2.3. -/
theorem test_loadBias_bytes : goesTo
    (execLoadBias { atPos cfg2 ⟨.loadBias, 0, 0, 0, 2⟩ with biasMem := Memory.ofBytes (asBytes [44, 1, 0, 0, 224, 177, -1, -1]) })
    (fun t => decide (t.bias.map BitVec.toInt = [300, -20000]) && decide (t.pc = ⟨.loadWeights, 0, 0, 0, 2⟩)) = true := by
  decide

theorem test_read32 : (Memory.ofBytes (asBytes [120, 86, 52, 18])).read32 0 = 0x12345678 ∧
    ((Memory.ofBytes (asBytes [36, -6, -1, -1])).read32 0).toInt = -1500 ∧
    ((Memory.ofBytes (asBytes [0, 0, 0, -128])).read32 0).toInt = -2147483648 := by decide

/-- `95_test_vectors.md` 2.4, `LOAD_WEIGHTS 1, 0`. -/
theorem test_loadWeights : goesTo
    (execLoadWeights 1 0 { atPos cfg2 ⟨.loadWeights, 1, 0, 3, 3⟩ with wgtMem := p2WgtMem, rowPtr := 1 })
    (fun t => decide (t.wbuf = [[[[-115, -86, -57], [-28, 1, 30], [59, 88, 117]]]]) &&
      decide (t.pc = ⟨.pushRow, 1, 0, 0, 2⟩) && decide (t.rowPtr = 0)) = true := by decide

/-- `95_test_vectors.md` 2.4, out of contract. -/
theorem test_loadWeights_b1 : stopsWith (execLoadWeights 120 96 (atPos cfg32x16 ⟨.loadWeights, 120, 96, 0, 2⟩)) .b1TileOrigin = true ∧
    stopsWith (execLoadWeights 128 0 (atPos cfg32x16 ⟨.loadWeights, 128, 0, 0, 2⟩)) .b1TileOrigin = true := by decide

/-- `95_test_vectors.md` 2.5, `PUSH_ROW 3, 0`: row 0 is overwritten. -/
theorem test_pushRow : goesTo (execPushRow 3 0 p2BeforeRow3)
    (fun t => decide (row t.lineBuf 0 = [[-4], [70], [-111], [-37]]) &&
      decide (row t.lineBuf 1 = [[-86], [-12], [62], [-119]]) && decide (t.rowPtr = 1) &&
      decide (t.pc = ⟨.buildWindow, 0, 0, 3, 2⟩)) = true := by decide

/-- `95_test_vectors.md` 2.5, out of contract: `PUSH_ROW 2, 0` when `ROWS_PUSHED = (0, 1)`. -/
theorem test_pushRow_b2 :
    stopsWith (execPushRow 2 0 { atPos cfg2 ⟨.pushRow, 0, 0, 2, 2⟩ with rowsPushed := some ⟨0, 1⟩ }) .b2RowOrder = true := by
  decide

/-- `95_test_vectors.md` 2.6, `BUILD_WINDOW 3, 2`. -/
theorem test_buildWindow : goesTo (execBuildWindow 3 2 p2BeforeWindow)
    (fun t => decide (t.window = [[[-86], [-12], [62]], [[-45], [29], [103]], [[-4], [70], [-111]]]) &&
      decide (t.windowTag = some ⟨0, 3, 2⟩)) = true := by decide

/-- `95_test_vectors.md` 2.6, out of contract: `y < K-1`, `x < K-1`, row 3 not pushed; and a ring element without a value. -/
theorem test_buildWindow_breaches : stopsWith (execBuildWindow 1 2 (atPos cfg2 ⟨.buildWindow, 0, 0, 1, 2⟩)) .b3NoWindow = true ∧
    stopsWith (execBuildWindow 2 1 (atPos cfg2 ⟨.buildWindow, 0, 0, 2, 1⟩)) .b3NoWindow = true ∧
    stopsWith (execBuildWindow 3 2 { p2BeforeWindow with rowsPushed := some ⟨0, 3⟩ }) .b3NoWindow = true ∧
    stopsWith (execBuildWindow 3 2 { p2BeforeWindow with lineBuf := [] }) .b10NoValue = true := by decide

/-- `95_test_vectors.md` 2.7: 4932 on the first tile, 1815 after the second. -/
theorem test_accumulate : goesTo (execAccumulate 3 2 p2BeforeMac)
    (fun t => decide (t.accAt 1 0 0 = some 4932) && decide (t.accTagAt 1 0 = some ⟨0, 1⟩) &&
      decide (t.pc = ⟨.buildWindow, 0, 0, 3, 3⟩)) = true ∧
    goesTo (execAccumulate 3 2 p2BeforeMac2)
      (fun t => decide (t.accAt 1 0 0 = some 1815) && decide (t.accTagAt 1 0 = some ⟨0, 2⟩) &&
        decide (t.pc.phase = .requantizeWrite)) = true := by decide

/-- `95_test_vectors.md` 2.7, out of contract: the window of another pixel; a bank of another tile. -/
theorem test_accumulate_b4 :
    stopsWith (execAccumulate 3 2 { p2BeforeMac with windowTag := some ⟨0, 3, 3⟩ }) .b4StaleOperand = true ∧
    stopsWith (execAccumulate 3 2 { p2BeforeMac2 with accTag := [] }) .b4StaleOperand = true := by decide

/-- `95_test_vectors.md` 2.7: wrap up, wrap down, wrap cancels. -/
theorem test_wrap : (wrap32 (2147483647 + 13)).toInt = -2147483636 ∧ (wrap32 (-2147483648 - 1)).toInt = 2147483647 ∧
    (wrap32 (-2147483636 - 20)).toInt = 2147483640 := by decide

/-- `95_test_vectors.md` 2.8: byte `80` at offset 3. -/
theorem test_requantizeWrite : goesTo (execRequantizeWrite 2 3 p2BeforeWrite)
    (fun t => decide (t.outMem.cells = [(3, 0x80)]) && decide (t.pc = ⟨.pushRow, 1, 1, 3, 2⟩)) = true := by decide

/-- `95_test_vectors.md` 2.8, out of contract: not the last input tile. -/
theorem test_requantizeWrite_b5 :
    stopsWith (execRequantizeWrite 2 3 { p2BeforeWrite with pc := ⟨.requantizeWrite, 1, 0, 2, 3⟩ }) .b5NotFinal = true := by
  decide

/-- `95_test_vectors.md` 2.8. -/
theorem test_requant : asInts ([0, 255, 256, -1, -256, -257, 32767, 32768, -32768, -32769, 2147483647, -2147483648].map fun a =>
    requant (BitVec.ofInt 32 a)) = [0, 0, 1, -1, -1, -2, 127, 127, -128, -128, 127, -128] := by decide

theorem test_finish : goesTo (execFinish (atPos cfg2 ⟨.finish, 1, 1, 3, 3⟩))
    (fun t => t.done && decide (t.pc = ⟨.idle, 1, 1, 3, 3⟩)) = true ∧
    stopsWith (execFinish (readyOf cfg2)) (.outOfSchedule "FINISH") = true := by decide

/-- `95_test_vectors.md` 2.9: next tile of input channels, next tile of output channels, end. -/
theorem test_advance : Pos.advance cfg2 ⟨.accumulate, 0, 0, 3, 3⟩ = ⟨.loadWeights, 0, 1, 0, 2⟩ ∧
    Pos.advance cfg2 ⟨.requantizeWrite, 0, 1, 3, 3⟩ = ⟨.loadWeights, 1, 0, 0, 2⟩ ∧
    Pos.advance cfg2 ⟨.requantizeWrite, 1, 1, 3, 3⟩ = ⟨.finish, 1, 1, 3, 3⟩ ∧
    Pos.advance cfg2 ⟨.accumulate, 0, 0, 2, 3⟩ = ⟨.pushRow, 0, 0, 3, 2⟩ := by decide

/-- `95_test_vectors.md` 2.9, step counts without the acceptance, and the stream of program P1. -/
theorem test_runLength : runLength cfg32x16 = 42338 ∧ runLength cfg2 = 62 ∧
    runOps cfg1 = [.loadBias, .loadWeights 0 0, .pushRow 0 0, .pushRow 1 0, .pushRow 2 0, .buildWindow 2 2, .accumulate 2 2,
      .requantizeWrite 2 2, .finish] := by decide

/-- `95_test_vectors.md` 3.4: first bytes `fa fb fc`, `fd fe ff`, `00 00 00 00`, of program P4's buffers. -/
theorem test_scenarioBytes : (scenarioBytes cfg2 .input).take 14 = asBytes [-6, -5, -4, -3, -2, -1, 0, 1, 2, 3, 4, 5, 6, -6] ∧
    (scenarioBytes cfg2 .weights).take 8 = asBytes [-3, -2, -1, 0, 1, 2, 3, -3] ∧
    scenarioBytes cfg2 .biases = asBytes [0, 0, 0, 0, 1, 0, 0, 0] := by decide

/-- Host moves: a byte past the end, a write while a run is outstanding, a reset in the middle of a run. -/
theorem test_hostMoves : (match hostMove (.write .output 1 5) (readyOf cfg1) with | .fault f => decide (f = .noSuchByte .output 1) | _ => false) = true ∧
    stopsWith (hostMove (.write .input 0 5) (pendingOf cfg1)) .b8HostAccess = true ∧
    goesTo (step { pendingOf cfg1 with inMem := ⟨9, [(0, 7)]⟩, agenda := [.reset] })
      (fun t => decide (t.duty = .cutShort) && !t.start && decide (t.inMem.cells = [(0, 7)])) = true := by decide

/-! ### Witnesses: the hypotheses of each statement, met together -/

theorem test_witness_DecodeOfEncode : Instr.hasWord (.requantizeWrite 16383 16383) = true ∧
    Instr.wf (.requantizeWrite 16383 16383) = true ∧ Instr.hasWord .start = false ∧
    Instr.wf (.pushRow 16384 0) = false := by decide

theorem test_witness_EncodeOfDecode : decode 0x6FFFFFFF#32 = .ok (.requantizeWrite 16383 16383) := by decide

/-- A reserved word; words whose operand is just past its range. -/
theorem test_witness_ReservedWordsRefused :
    ((readyOf cfg1).issueFirst 0x80000000#32).agenda = [.driver 0x80000000#32] ∧
    decode 0x80000000#32 = .error (.reservedOpcode 8) ∧
    decode 0x3000C000#32 = .ok (.pushRow 3 0) ∧ Instr.inRange cfg1 (.pushRow 3 0) = false ∧
    Instr.inRange cfg1 (.pushRow 2 0) = true := by decide

theorem test_witness_PositionWordDecodes : (Pos.mk .requantizeWrite 16383 16383 16383 16383).phase ≠ .idle ∧
    (16383 : Nat) < 2 ^ 14 ∧ (Pos.mk .finish 0 0 0 0).phase ≠ .idle ∧
    (Pos.mk .pushRow 0 0 16384 0).instr = some (.pushRow 16384 0) ∧ Instr.wf (.pushRow 16384 0) = false := by decide

theorem test_witness_StepRunsDecoded : p2BeforeWindow.agenda = [] ∧ p2BeforeWindow.pc.instr = some (.buildWindow 3 2) ∧
    ({ p2BeforeWindow with agenda := [.engine] } : State).agenda = [.engine] ∧
    (p2BeforeWindow.issueFirst 0x4000C002#32).agenda = [.driver 0x4000C002#32] ∧
    decode 0x4000C002#32 = .ok (.buildWindow 3 2) := by decide

theorem test_witness_ResetEventResets : ({ p2BeforeMac with agenda := [.reset] } : State).agenda = [.reset] := rfl

theorem test_witness_StartSetsSignal : (∀ sp, ((readyOf cfg1).ref sp).written = true) ∧ (readyOf cfg1).buffersFit = true ∧
    (readyOf cfg1).pc.phase = .idle := ⟨fun sp => by cases sp <;> rfl, by decide, rfl⟩

/-- Each clause at its boundary: one reference not written, each buffer one byte short, and a run in progress. -/
theorem test_witness_StartBreaches : (({ readyOf cfg1 with outRef := Ref.unwritten } : State).ref .output).written = false ∧
    (8 < cfg1.inBytes ∧ 8 < cfg1.wgtBytes ∧ 3 < cfg1.biasBytes ∧ 0 < cfg1.outBytes) ∧
    ((∀ sp, ((atPos cfg1 ⟨.finish, 0, 0, 2, 2⟩).ref sp).written = true) ∧
      (atPos cfg1 ⟨.finish, 0, 0, 2, 2⟩).buffersFit = true ∧ (atPos cfg1 ⟨.finish, 0, 0, 2, 2⟩).pc.phase ≠ .idle) :=
  ⟨rfl, by decide, fun sp => by cases sp <;> rfl, by decide, by decide⟩

theorem test_witness_EngineAcceptsStart :
    (pendingOf cfg1).agenda = [] ∧ (pendingOf cfg1).pc.phase = .idle ∧ (pendingOf cfg1).start = true := by decide

theorem test_witness_IdleEngineWaits :
    (readyOf cfg1).agenda = [] ∧ (readyOf cfg1).pc.phase = .idle ∧ (readyOf cfg1).start = false := by decide

theorem test_witness_WaitDoneObserves :
    ({ readyOf cfg1 with done := true } : State).done = true ∧ ({ readyOf cfg1 with done := true } : State).start = false ∧
    (readyOf cfg1).done = false ∧ (pendingOf cfg1).start = true := by decide

/-- The engine completes in one case and stops in the other. -/
theorem test_witness_WaitingHostLetsEngineMove :
    (pendingOf cfg1).done = false ∧ goesTo (step (pendingOf cfg1)) (fun _ => true) = true ∧
    stopsWith (step (atPos cfg1 ⟨.pushRow, 0, 0, 0, 2⟩)) .b2RowOrder = true ∧
    (atPos cfg1 ⟨.pushRow, 0, 0, 0, 2⟩).done = false := by decide

theorem test_witness_HostTouchesNothingWhileBusy : (atPos cfg1 ⟨.finish, 0, 0, 2, 2⟩).pc.phase ≠ .idle ∧
    (pendingOf cfg1).duty = .awaiting ∧ HostMove.read .output 0 ≠ .start ∧ HostMove.read .output 0 ≠ .waitDone ∧
    HostMove.readRef .input ≠ .start ∧ HostMove.readRef .input ≠ .waitDone := by decide

/-- A read of the last byte of `BIASMEM`, of `OUT` before and after a run is cut short, and of a reference. -/
theorem test_witness_HostReadsBack : (readyOf cfg1).pc.phase = .idle ∧ (readyOf cfg1).duty ≠ .awaiting ∧
    goesTo (step { readyOf cfg1 with biasMem := ⟨4, [(3, 9)]⟩, duty := .cutShort, agenda := [.host (.read .biases 3)] })
      (fun t => decide (t.hostSaw = some (.byte 9))) = true ∧
    goesTo (step { readyOf cfg1 with agenda := [.host (.read .output 0)] })
      (fun t => decide (t.hostSaw = some (.byte 0))) = true ∧
    stopsWith (step { readyOf cfg1 with duty := .cutShort, agenda := [.host (.read .output 0)] }) .b8HostAccess = true ∧
    goesTo (step { readyOf cfg1 with agenda := [.host (.readRef .weights)] })
      (fun t => decide (t.hostSaw = some (.handle 3))) = true := by decide

/-- The first offset past the end. -/
theorem test_witness_HostPastEndFaults : (readyOf cfg1).pc.phase = .idle ∧ (readyOf cfg1).duty = .free ∧
    ((readyOf cfg1).space .biases).size ≤ 4 ∧ 3 < ((readyOf cfg1).space .biases).size := by decide

theorem test_witness_OutOfScheduleRefused : 3 < cfg1.biasBytes ∧ cfg1.biasBytes ≤ (readyOf cfg1).biasMem.size ∧
    (readyOf cfg1).pc.phase ≠ .loadBias ∧ (readyOf cfg1).pc.phase ≠ .finish ∧
    stopsWith (execLoadBias { readyOf cfg1 with biasMem := ⟨3, []⟩ }) .b6Buffer = true := by decide

theorem test_witness_HostWriteLands : (readyOf cfg1).pc.phase = .idle ∧ (readyOf cfg1).duty ≠ .awaiting ∧
    8 < ((readyOf cfg1).space .input).size ∧ ((readyOf cfg1).space .input).wf := by decide

theorem test_witness_HostPreparesRun : (readyOf cfg1).pc.phase = .idle ∧ (readyOf cfg1).duty ≠ .awaiting ∧
    goesTo (step { readyOf cfg1 with agenda := [.host (.setRef .weights 7)] }) (fun t => decide (t.wgtRef = ⟨7, true⟩)) = true ∧
    goesTo (step { readyOf cfg1 with agenda := [.host (.provide .biases (asBytes [1, 0, 2, 0]))] })
      (fun t => decide (t.biasMem = ⟨4, [(0, 1), (2, 2)]⟩)) = true := by decide

theorem test_witness_LoadBiasLoadsVector : (atPos cfg2 ⟨.loadBias, 0, 0, 0, 2⟩).pc.phase = .loadBias ∧
    (atPos cfg2 ⟨.loadBias, 0, 0, 0, 2⟩).cfg.biasBytes ≤ (atPos cfg2 ⟨.loadBias, 0, 0, 0, 2⟩).biasMem.size := by decide

theorem test_witness_FinishReportsDone : (atPos cfg2 ⟨.finish, 1, 1, 3, 3⟩).pc.phase = .finish := rfl

/-- The last tile origins of the instance. -/
theorem test_witness_LoadWeightsLoadsTile : (atPos cfg32x16 ⟨.loadWeights, 112, 96, 0, 2⟩).pc.phase = .loadWeights ∧
    112 % cfg32x16.coTile = 0 ∧ 112 ≤ cfg32x16.cout - cfg32x16.coTile ∧ 96 % cfg32x16.ciTile = 0 ∧
    96 ≤ cfg32x16.cin - cfg32x16.ciTile ∧
    cfg32x16.wgtBytes ≤ (atPos cfg32x16 ⟨.loadWeights, 112, 96, 0, 2⟩).wgtMem.size := by decide

/-- The last row (clause `K-1 ≤ y`). -/
theorem test_witness_PushRowFillsSlot : p2BeforeRow3.pc.phase = .pushRow ∧ p2BeforeRow3.pc.y = 3 ∧ p2BeforeRow3.pc.ci0 = 0 ∧
    3 < p2BeforeRow3.cfg.h ∧ p2BeforeRow3.cfg.CiOrigin 0 ∧ p2BeforeRow3.rowsPushed = some ⟨0, 3⟩ ∧
    p2BeforeRow3.cfg.inBytes ≤ p2BeforeRow3.inMem.size ∧ p2BeforeRow3.rowPtr < p2BeforeRow3.cfg.k ∧
    p2BeforeRow3.cfg.k - 1 ≤ 3 := by decide

/-- Row `K-2` (clause `y < K-1`) and row `K-1`, at the boundary of the two clauses. -/
theorem test_witness_PushRowFillsSlot_clauses : 1 < cfg2.k - 1 ∧ cfg2.k - 1 ≤ 2 ∧
    goesTo (execPushRow 1 0 { atPos cfg2 ⟨.pushRow, 0, 0, 1, 2⟩ with rowsPushed := some ⟨0, 1⟩, rowPtr := 1 })
      (fun t => decide (t.pc = ⟨.pushRow, 0, 0, 2, 2⟩)) = true ∧
    goesTo (execPushRow 2 0 { atPos cfg2 ⟨.pushRow, 0, 0, 2, 2⟩ with rowsPushed := some ⟨0, 2⟩, rowPtr := 2 })
      (fun t => decide (t.pc = ⟨.buildWindow, 0, 0, 2, 2⟩) && decide (t.rowPtr = 0)) = true := by decide

theorem test_witness_BuildWindowCopiesRing : p2BeforeWindow.pc.phase = .buildWindow ∧ p2BeforeWindow.pc.y = 3 ∧
    p2BeforeWindow.pc.x = 2 ∧ p2BeforeWindow.cfg.k - 1 ≤ 3 ∧ 3 < p2BeforeWindow.cfg.h ∧ p2BeforeWindow.cfg.k - 1 ≤ 2 ∧
    2 < p2BeforeWindow.cfg.w ∧ p2BeforeWindow.rowsPushed = some ⟨p2BeforeWindow.pc.ci0, 4⟩ ∧
    ∀ r, r < p2BeforeWindow.cfg.k → ∀ q, q < p2BeforeWindow.cfg.w → ∀ ci, ci < p2BeforeWindow.cfg.ciTile →
      (p2BeforeWindow.lineAt r q ci).isSome = true := by decide

/-- The positions, the tags and the pixel; on the first tile, with the bias as base. -/
theorem test_witness_AccumulateAddsTaps : p2BeforeMac.pc = ⟨.accumulate, 0, 0, 3, 2⟩ ∧ p2BeforeMac.cfg = cfg2 ∧
    p2BeforeMac.windowTag = some ⟨p2BeforeMac.pc.ci0, 3, 2⟩ ∧
    p2BeforeMac.wbufTag = some ⟨p2BeforeMac.pc.co0, p2BeforeMac.pc.ci0⟩ ∧ p2BeforeMac.biasValid = true ∧
    (∀ co, co < p2BeforeMac.cfg.coTile → p2BeforeMac.biasAt (p2BeforeMac.pc.co0 + co) = some 300) ∧
    (∀ ky, ky < p2BeforeMac.cfg.k → ∀ kx, kx < p2BeforeMac.cfg.k → ∀ ci, ci < p2BeforeMac.cfg.ciTile →
      p2BeforeMac.windowAt ky kx ci = some ((p2BeforeMac.windowAt ky kx ci).getD 0)) ∧
    ∀ co, co < p2BeforeMac.cfg.coTile → ∀ ci, ci < p2BeforeMac.cfg.ciTile → ∀ ky, ky < p2BeforeMac.cfg.k →
      ∀ kx, kx < p2BeforeMac.cfg.k → p2BeforeMac.wbufAt co ci ky kx = some ((p2BeforeMac.wbufAt co ci ky kx).getD 0) := by
  decide

/-- On a later tile, the last one, with the bank as base. -/
theorem test_witness_AccumulateAddsTaps_later : p2BeforeMac2.pc = ⟨.accumulate, 0, 1, 3, 2⟩ ∧ p2BeforeMac2.cfg = cfg2 ∧
    p2BeforeMac2.windowTag = some ⟨p2BeforeMac2.pc.ci0, 3, 2⟩ ∧
    p2BeforeMac2.wbufTag = some ⟨p2BeforeMac2.pc.co0, p2BeforeMac2.pc.ci0⟩ ∧
    p2BeforeMac2.pc.ci0 = p2BeforeMac2.cfg.cin - p2BeforeMac2.cfg.ciTile ∧
    p2BeforeMac2.accTagAt 1 0 = some ⟨p2BeforeMac2.pc.co0, p2BeforeMac2.pc.ci0⟩ ∧
    (∀ co, co < p2BeforeMac2.cfg.coTile → p2BeforeMac2.accAt 1 0 co = some 4932) ∧
    (∀ ky, ky < p2BeforeMac2.cfg.k → ∀ kx, kx < p2BeforeMac2.cfg.k → ∀ ci, ci < p2BeforeMac2.cfg.ciTile →
      p2BeforeMac2.windowAt ky kx ci = some ((p2BeforeMac2.windowAt ky kx ci).getD 0)) ∧
    ∀ co, co < p2BeforeMac2.cfg.coTile → ∀ ci, ci < p2BeforeMac2.cfg.ciTile → ∀ ky, ky < p2BeforeMac2.cfg.k →
      ∀ kx, kx < p2BeforeMac2.cfg.k → p2BeforeMac2.wbufAt co ci ky kx = some ((p2BeforeMac2.wbufAt co ci ky kx).getD 0) := by
  decide

theorem test_witness_RequantizeWritesLanes : p2BeforeWrite.pc = ⟨.requantizeWrite, 1, 1, 2, 3⟩ ∧
    p2BeforeWrite.cfg.k - 1 ≤ 2 ∧ 2 < p2BeforeWrite.cfg.h ∧ 3 < p2BeforeWrite.cfg.w ∧
    p2BeforeWrite.pc.ci0 = p2BeforeWrite.cfg.cin - p2BeforeWrite.cfg.ciTile ∧
    p2BeforeWrite.accTagAt 0 1 = some ⟨p2BeforeWrite.pc.co0, p2BeforeWrite.cfg.cin⟩ ∧
    (∀ co, co < p2BeforeWrite.cfg.coTile → p2BeforeWrite.accAt 0 1 co = some (BitVec.ofInt 32 (-33644))) ∧
    p2BeforeWrite.cfg.outBytes ≤ p2BeforeWrite.outMem.size ∧ p2BeforeWrite.outMem.wf := by decide

/-- Each clause in the order of the statement, at the edge of the range. -/
theorem test_witness_LoadWeightsBreach : (readyOf cfg32x16).pc.phase ≠ .loadWeights ∧
    (112 : Nat) ≠ (atPos cfg32x16 ⟨.loadWeights, 96, 96, 0, 2⟩).pc.co0 ∧
    (96 : Nat) ≠ (atPos cfg32x16 ⟨.loadWeights, 112, 64, 0, 2⟩).pc.ci0 ∧ 113 % cfg32x16.coTile ≠ 0 ∧
    cfg32x16.cout < 128 + cfg32x16.coTile ∧ 97 % cfg32x16.ciTile ≠ 0 ∧ cfg32x16.cin < 128 + cfg32x16.ciTile := by decide

theorem test_witness_PushRowBreach : (readyOf cfg32x16).pc.phase ≠ .pushRow ∧
    (1 : Nat) ≠ (atPos cfg32x16 ⟨.pushRow, 0, 0, 0, 2⟩).pc.y ∧ (32 : Nat) ≠ (atPos cfg32x16 ⟨.pushRow, 0, 0, 0, 2⟩).pc.ci0 ∧
    cfg32x16.h ≤ 26 ∧ 1 % cfg32x16.ciTile ≠ 0 ∧ cfg32x16.cin < 128 + cfg32x16.ciTile ∧
    (atPos cfg32x16 ⟨.pushRow, 0, 0, 0, 2⟩).rowsPushed ≠ some ⟨0, 0⟩ := by decide

/-- The clauses of B3, and B10 with everything else in order. -/
theorem test_witness_BuildWindowBreaches : (readyOf cfg2).pc.phase ≠ .buildWindow ∧ (2 : Nat) ≠ p2BeforeWindow.pc.y ∧
    (3 : Nat) ≠ p2BeforeWindow.pc.x ∧ 1 + 1 < cfg2.k ∧ cfg2.h ≤ 4 ∧ cfg2.w ≤ 4 ∧
    p2BeforeWindow.rowsPushed ≠ some ⟨p2BeforeWindow.pc.ci0, 3⟩ ∧
    (p2BeforeWindow.pc = ⟨.buildWindow, 0, 0, 3, 2⟩ ∧ cfg2.k ≤ 3 + 1 ∧ 3 < cfg2.h ∧ cfg2.k ≤ 2 + 1 ∧ 2 < cfg2.w ∧
      p2BeforeWindow.rowsPushed = some ⟨p2BeforeWindow.pc.ci0, 3 + 1⟩ ∧
      ({ p2BeforeWindow with lineBuf := [] } : State).lineAt ((1 + 0) % 3) (2 - 2 + 0) 0 = none) := by decide

theorem test_witness_AccumulateBreach : (readyOf cfg2).pc.phase ≠ .accumulate ∧ (2 : Nat) ≠ p2BeforeMac.pc.y ∧
    (3 : Nat) ≠ p2BeforeMac.pc.x ∧ 1 + 1 < cfg2.k ∧ cfg2.h ≤ 4 ∧ cfg2.w ≤ 4 ∧
    p2BeforeMac.windowTag ≠ some ⟨p2BeforeMac.pc.ci0, 3, 3⟩ ∧
    (atPos cfg2 ⟨.accumulate, 0, 0, 3, 2⟩).wbufTag ≠ some ⟨0, 0⟩ ∧
    (atPos cfg2 ⟨.accumulate, 0, 0, 3, 2⟩).biasValid = false ∧
    ((atPos cfg2 ⟨.accumulate, 0, 1, 3, 2⟩).pc.ci0 ≠ 0 ∧
      (atPos cfg2 ⟨.accumulate, 0, 1, 3, 2⟩).accTagAt 1 0 ≠ some ⟨0, 1⟩) := by decide

theorem test_witness_RequantizeWriteBreach : (readyOf cfg2).pc.phase ≠ .requantizeWrite ∧ (3 : Nat) ≠ p2BeforeWrite.pc.y ∧
    (2 : Nat) ≠ p2BeforeWrite.pc.x ∧ 1 + 1 < cfg2.k ∧ cfg2.h ≤ 4 ∧ cfg2.w ≤ 4 ∧
    (atPos cfg2 ⟨.requantizeWrite, 1, 0, 2, 3⟩).pc.ci0 ≠ cfg2.cin - cfg2.ciTile ∧
    (atPos cfg2 ⟨.requantizeWrite, 1, 1, 2, 3⟩).accTagAt 0 1 ≠ some ⟨1, cfg2.cin⟩ := by decide

/-- For `PositionFollowsSchedule`, `OperationsKeepCallerState` and `StepKeepsConfiguration`: operations that complete. -/
theorem test_witness_PositionFollowsSchedule : Instr.hasWord (.buildWindow 3 2) = true ∧
    (∃ t, exec (.buildWindow 3 2) p2BeforeWindow = .next t) ∧ (∃ t, exec (.requantizeWrite 2 3) p2BeforeWrite = .next t) :=
  ⟨rfl, goesTo_exists (p := fun _ => true) (by decide), goesTo_exists (p := fun _ => true) (by decide)⟩

theorem test_witness_OperationsKeepCallerState : (∃ t, exec .start (readyOf cfg1) = .next t) ∧
    (∃ t, exec (.accumulate 3 2) p2BeforeMac = .next t) ∧ (∀ y x, Instr.accumulate 3 2 ≠ .requantizeWrite y x) :=
  ⟨goesTo_exists (p := fun _ => true) (by decide), goesTo_exists (p := fun _ => true) (by decide),
    fun _ _ h => Instr.noConfusion h⟩

/-- Two states that differ in the bias memory both complete `LOAD_BIAS`. -/
theorem test_witness_NoBranchOnData :
    (∃ t, step (atPos cfg2 ⟨.loadBias, 0, 0, 0, 2⟩) = .next t) ∧
    (∃ t, step { atPos cfg2 ⟨.loadBias, 0, 0, 0, 2⟩ with biasMem := ⟨8, [(0, 5)]⟩ } = .next t) ∧
    (atPos cfg2 ⟨.loadBias, 0, 0, 0, 2⟩).agenda = [] :=
  ⟨goesTo_exists (p := fun _ => true) (by decide), goesTo_exists (p := fun _ => true) (by decide), rfl⟩

/-- Other contents of `OUT`; an operation that completes, and one that is refused. -/
theorem test_witness_OutputNeverRead : (Memory.mk 8 [(3, 7)]).size = p2BeforeWrite.outMem.size ∧ (Memory.mk 8 [(3, 7)]).wf ∧
    p2BeforeWrite.outMem.wf ∧ goesTo (exec (.requantizeWrite 2 3) p2BeforeWrite) (fun _ => true) = true ∧
    stopsWith (exec (.requantizeWrite 2 3) (atPos cfg2 ⟨.requantizeWrite, 1, 1, 2, 3⟩)) .b5NotFinal = true := by decide

/-- For `StepKeepsMemoryWf`, `StepKeepsCursorsInRange` and `StepKeepsConfiguration`: a step that writes `OUT`. -/
theorem test_witness_StepKeepsMemoryWf : p2BeforeWrite.CursorsInRange ∧ p2BeforeWrite.MemoryWf ∧
    p2BeforeWrite.ColumnVisited ∧ goesTo (step p2BeforeWrite) (fun t => decide (t.outMem ≠ p2BeforeWrite.outMem)) = true := by
  decide

/-- For `StepKeepsCursorsInRange`: a step from reset, where `X` is 0. -/
theorem test_witness_StepKeepsCursorsInRange : (pendingOf cfg1).CursorsInRange ∧ (pendingOf cfg1).ColumnVisited ∧
    goesTo (step (pendingOf cfg1)) (fun t => decide (t.pc.x = 2)) = true := by decide

theorem test_witness_StepKeepsConfiguration : ∃ t, step p2BeforeWindow = .next t :=
  goesTo_exists (p := fun _ => true) (by decide)

theorem test_witness_AccumulationOrderFree : [13, (-20 : Int), 7].Perm [7, 13, -20] := by decide

theorem test_witness_NoWrapUnderBound : |((readyOf cfg1).biasWord 0).toInt| +
    ((readyOf cfg1).cfg.cin * (readyOf cfg1).cfg.k * (readyOf cfg1).cfg.k * 16384 : Int) ≤ 2 ^ 31 - 1 := by decide

/-- Each clause at its boundary. -/
theorem test_witness_RequantThresholds : 32768 ≤ (32768#32).toInt ∧ (BitVec.ofInt 32 (-32769)).toInt ≤ -32769 ∧
    ((-128 : Int) ≤ -128 ∧ 256 * (-128) ≤ (BitVec.ofInt 32 (-32768)).toInt ∧
      (BitVec.ofInt 32 (-32768)).toInt ≤ 256 * (-128) + 255) ∧
    ((127 : Int) ≤ 127 ∧ 256 * 127 ≤ (32767#32).toInt ∧ (32767#32).toInt ≤ 256 * 127 + 255) := by decide

theorem test_witness_RequantMonotone : (BitVec.ofInt 32 (-257)).toInt ≤ (BitVec.ofInt 32 (-256)).toInt ∧
    (256 * (-1) ≤ (BitVec.ofInt 32 (-256)).toInt ∧ (BitVec.ofInt 32 (-1)).toInt ≤ 256 * (-1) + 255) := by decide

/-- For `AcceptanceOpensRun`, `RunEqualsReference` and `RunPassesHarness`. -/
theorem test_witness_AcceptanceOpensRun : (pendingOf cfg2).agenda = [] ∧ (pendingOf cfg2).pc.phase = .idle ∧
    (pendingOf cfg2).start = true ∧ (pendingOf cfg2).buffersFit = true ∧ (pendingOf cfg2).outMem.wf := by decide

theorem test_witness_RunEqualsReference : (pendingOf cfg1).agenda = [] ∧ (pendingOf cfg1).pc.phase = .idle ∧
    (pendingOf cfg1).start = true ∧ (pendingOf cfg1).buffersFit = true ∧ (pendingOf cfg1).outMem.wf := by decide

theorem test_witness_RunPassesHarness : (pendingOf cfg2Whole).agenda = [] ∧ (pendingOf cfg2Whole).pc.phase = .idle ∧
    (pendingOf cfg2Whole).start = true ∧ (pendingOf cfg2Whole).buffersFit = true ∧ (pendingOf cfg2Whole).outMem.wf := by
  decide

/-- In the middle of a run of the one-tap instance: input 3, weight 2, bias 5, bank 11, before `REQUANTIZE_WRITE 0, 0`. -/
def tinyMid : State :=
  { atPos cfgTiny ⟨.requantizeWrite, 0, 0, 0, 0⟩ with
    inMem := ⟨1, [(0, 3)]⟩
    wgtMem := ⟨1, [(0, 2)]⟩
    biasMem := ⟨4, [(0, 5)]⟩
    bias := [5]
    biasValid := true
    wbufTag := some ⟨0, 0⟩
    wbuf := [[[[2]]]]
    rowsPushed := some ⟨0, 1⟩
    lineBuf := [[[3]]]
    accTag := [[some ⟨0, 1⟩]]
    acc := [[[11]]] }

theorem test_witness_StepKeepsRunInv : tinyMid.agenda = [] ∧ tinyMid.RunInv ∧ tinyMid.pc.phase ≠ .finish := by
  refine ⟨rfl, ⟨by decide, by decide, ⟨by decide, by decide, by decide, by decide, Nat.le_refl 0, rfl⟩, ?_, ?_, ?_⟩, by decide⟩
  · exact ⟨⟨rfl, by decide⟩, ⟨rfl, by decide⟩, rfl, rfl, by decide⟩
  · unfold State.BanksHold; decide
  · rintro oy - ox - co - (h | ⟨-, -, h⟩) <;> exact absurd h (Nat.not_lt_zero _)

theorem test_witness_HostCallDelivers :
    ({ State.resetOf cfg1 with agenda := callTurns (scenarioBytes cfg1) fun _ => 0 } : State).agenda =
      callTurns (scenarioBytes cfg1) (fun _ => 0) ∧
    (State.resetOf cfg1).pc.phase = .idle ∧ (State.resetOf cfg1).duty ≠ .awaiting ∧
    (scenarioBytes cfg1 .input).length = cfg1.inBytes ∧ (scenarioBytes cfg1 .weights).length = cfg1.wgtBytes ∧
    (scenarioBytes cfg1 .biases).length = cfg1.biasBytes ∧ (scenarioBytes cfg1 .output).length = cfg1.outBytes :=
  ⟨rfl, by decide, by decide, by decide, by decide, by decide, by decide⟩

theorem test_witness_OutputIndependentOfTiles : (pendingOf cfg2).agenda = [] ∧ (pendingOf cfg2Whole).agenda = [] ∧
    (pendingOf cfg2).pc.phase = .idle ∧ (pendingOf cfg2Whole).pc.phase = .idle ∧ (pendingOf cfg2).start = true ∧
    (pendingOf cfg2Whole).start = true ∧ (pendingOf cfg2).buffersFit = true ∧ (pendingOf cfg2Whole).buffersFit = true ∧
    (pendingOf cfg2).outMem.wf ∧ (pendingOf cfg2Whole).outMem.wf ∧ (pendingOf cfg2).inMem = (pendingOf cfg2Whole).inMem ∧
    (pendingOf cfg2).wgtMem = (pendingOf cfg2Whole).wgtMem ∧ (pendingOf cfg2).biasMem = (pendingOf cfg2Whole).biasMem :=
  ⟨rfl, rfl, rfl, rfl, rfl, rfl, by decide, by decide, by decide, by decide, rfl, rfl, rfl⟩

theorem test_witness_OutputIndependentOfTiles_cfg :
    { (pendingOf cfg2).cfg.toDims with ciTile := (pendingOf cfg2Whole).cfg.ciTile, coTile := (pendingOf cfg2Whole).cfg.coTile } =
      (pendingOf cfg2Whole).cfg.toDims := rfl

end Sys2Proof.Machine
end

section
/-! Every operation is a contract over one effect; what the effects leave alone is said once, for all operations. -/

namespace Sys2Proof.Machine

/-- The preconditions of an operation; `WAIT_DONE` is never refused (`40_control_sequencer.md` R126). -/
def checksOf : Instr → State → List (Bool × Refusal)
  | .start, s => startChecks s
  | .waitDone, _ => []
  | .loadBias, s => loadBiasChecks s
  | .loadWeights co0 ci0, s => loadWeightsChecks co0 ci0 s
  | .pushRow y ci0, s => pushRowChecks y ci0 s
  | .buildWindow y x, s => buildWindowChecks y x s
  | .accumulate y x, s => accumulateChecks y x s
  | .requantizeWrite y x, s => requantizeWriteChecks y x s
  | .finish, s => finishChecks s

/-- The state an operation answers where its preconditions hold. -/
def effectOf : Instr → State → State
  | .start, s => s.started
  | .waitDone, s => { s with duty := if s.waitEnabled then .free else s.duty }
  | .loadBias, s => s.biasLoaded
  | .loadWeights co0 ci0, s => s.weightsLoaded co0 ci0
  | .pushRow y ci0, s => s.rowPushed y ci0
  | .buildWindow y x, s => s.windowBuilt y x
  | .accumulate y x, s => s.accumulated y x
  | .requantizeWrite y x, s => s.requantized y x
  | .finish, s => s.finished

theorem exec_eq_checked (i : Instr) (s : State) : exec i s = checked (checksOf i s) (.next (effectOf i s)) := by
  cases i with
  | waitDone =>
    refine (execWaitDone_next s).trans ?_
    rw [checksOf, checked_nil, effectOf]
    split <;> rfl
  | _ => rfl

theorem exec_next_iff {i : Instr} {s t : State} :
    exec i s = .next t ↔ (∀ p ∈ checksOf i s, p.1 = true) ∧ t = effectOf i s := by
  rw [exec_eq_checked, checked_next_iff]

/-- Which refusal a contract over a next state gives does not depend on that state. -/
theorem checked_next_refused {cs : List (Bool × Refusal)} {t : State} (u : State) {r : Refusal}
    (h : checked cs (.next t) = .refused r) : checked cs (.next u) = .refused r := by
  induction cs with
  | nil => exact absurd h (by simp)
  | cons p cs ih =>
    obtain ⟨b, r'⟩ := p
    cases b
    · exact h
    · exact ih h

/-! ### What the effects leave alone -/

@[simp] theorem effectOf_cfg (i : Instr) (s : State) : (effectOf i s).cfg = s.cfg := by cases i <;> rfl

@[simp] theorem effectOf_agenda (i : Instr) (s : State) : (effectOf i s).agenda = s.agenda := by cases i <;> rfl

@[simp] theorem effectOf_ref (i : Instr) (s : State) (sp : Space) : (effectOf i s).ref sp = s.ref sp := by
  cases i <;> rfl

theorem effectOf_space (i : Instr) (s : State) {sp : Space} (h : sp ≠ .output) :
    (effectOf i s).space sp = s.space sp := by
  cases sp with
  | output => exact absurd rfl h
  | _ => cases i <;> rfl

theorem effectOf_outMem (s : State) {i : Instr} (h : ∀ y x, i ≠ .requantizeWrite y x) :
    (effectOf i s).outMem = s.outMem := by
  cases i with
  | requantizeWrite y x => exact absurd rfl (h y x)
  | _ => rfl

theorem effectOf_outMem_size (i : Instr) (s : State) : (effectOf i s).outMem.size = s.outMem.size := by
  cases i with
  | requantizeWrite y x => exact Memory.writeAll_size _ _
  | _ => rfl

/-! ### Other contents of `OUT` -/

/-- No precondition looks at a byte of `OUT`: only its size counts (`20_memory.md` R65). -/
theorem checksOf_withOutput (i : Instr) {s : State} {m : Memory} (h : m.size = s.outMem.size) :
    checksOf i { s with outMem := m } = checksOf i s := by
  cases i with
  | start => simp only [checksOf, startChecks, State.buffersFit, h]; rfl
  | requantizeWrite y x => simp only [checksOf, requantizeWriteChecks, h]; rfl
  | _ => rfl

/-- No effect on anything but `OUT` depends on `OUT`. -/
theorem effectOf_withOutput (i : Instr) (s : State) (m : Memory) :
    effectOf i s = { effectOf i { s with outMem := m } with outMem := (effectOf i s).outMem } := by
  cases i <;> rfl

/-- The same writes into two memories: an offset keeps its byte in both, or holds the same byte in both. -/
theorem Memory.writeAll_read_kept_or_same (l : List (Nat × I8)) (a : Nat) {m m' : Memory}
    (h : (m.cells.map Prod.fst).Pairwise (· < ·)) (h' : (m'.cells.map Prod.fst).Pairwise (· < ·)) :
    ((m.writeAll l).read a = m.read a ∧ (m'.writeAll l).read a = m'.read a) ∨
      (m.writeAll l).read a = (m'.writeAll l).read a := by
  induction l generalizing m m' with
  | nil => exact .inl ⟨rfl, rfl⟩
  | cons e l ih =>
    obtain ⟨b, v⟩ := e
    rcases ih (m := m.write b v) (m' := m'.write b v) (cellsWrite_rising _ _ _ h) (cellsWrite_rising _ _ _ h') with
      ⟨hk, hk'⟩ | hsame
    · rw [Memory.read_write _ _ _ _ h] at hk
      rw [Memory.read_write _ _ _ _ h'] at hk'
      by_cases hab : a = b
      · exact .inr (hk.trans ((if_pos hab).trans ((if_pos hab).symm.trans hk'.symm)))
      · exact .inl ⟨hk.trans (if_neg hab), hk'.trans (if_neg hab)⟩
    · exact .inr hsame

/-- Every byte of `OUT` keeps its own old value, or does not depend on the old contents (`45_output_requantizer.md` R201). -/
theorem effectOf_outMem_kept_or_same (i : Instr) {s : State} {m : Memory} (hm : m.wf) (hs : s.outMem.wf) (a : Nat) :
    ((effectOf i s).outMem.read a = s.outMem.read a ∧ (effectOf i { s with outMem := m }).outMem.read a = m.read a) ∨
      (effectOf i s).outMem.read a = (effectOf i { s with outMem := m }).outMem.read a := by
  cases i with
  | requantizeWrite y x => exact Memory.writeAll_read_kept_or_same _ a hs.1 hm.1
  | _ => exact .inl ⟨rfl, rfl⟩

/-- Settles O37: the preconditions see only the size of `OUT`, and the effects do not read it. -/
theorem outputNeverRead : Obligations.OutputNeverRead := by
  unfold Obligations.OutputNeverRead
  intro i s m hsize hm hs
  refine ⟨fun t ht => ?_, fun r hr => ?_⟩
  · obtain ⟨hchecks, rfl⟩ := exec_next_iff.mp ht
    exact ⟨_, exec_next_iff.mpr ⟨checksOf_withOutput i hsize ▸ hchecks, rfl⟩, effectOf_withOutput i s m,
      effectOf_outMem_kept_or_same i hm hs⟩
  · rw [exec_eq_checked] at hr ⊢
    rw [checksOf_withOutput i hsize]
    exact checked_next_refused _ hr

/-- Settles O36: each frame is a frame of the effect. -/
theorem operationsKeepCallerState : Obligations.OperationsKeepCallerState := by
  unfold Obligations.OperationsKeepCallerState
  intro i s t h
  obtain ⟨-, rfl⟩ := exec_next_iff.mp h
  exact ⟨fun _ => effectOf_space i s, effectOf_ref i s, effectOf_cfg i s, effectOf_agenda i s, effectOf_outMem_size i s,
    effectOf_outMem s⟩

end Sys2Proof.Machine
end

section
/-! The reset values, and the invariants that every step of any agent keeps. -/

namespace Sys2Proof.Machine

/-! ### Reset -/

theorem step_reset {s : State} {rest : List Turn} (h : s.agenda = .reset :: rest) :
    step s = .next ({ s with agenda := rest } : State).resetEvent := by simp only [step, takeTurn, h]

/-- Settles O7: the turn answers the reset event's state, whose fields are the reset values. -/
theorem resetEventResets : Obligations.ResetEventResets := by
  unfold Obligations.ResetEventResets
  intro s rest h
  refine ⟨_, step_reset h, rfl, rfl, rfl, rfl, ?line, ?wbuf, fun _ => rfl, ?window, ?acc, ?ref, rfl, rfl, rfl, rfl, ?tag,
    ?space, rfl⟩
  case line => simp [State.lineAt]
  case wbuf => simp [State.wbufAt]
  case window => simp [State.windowAt]
  case acc => simp [State.accAt]
  case tag => simp [State.accTagAt]
  case ref => intro sp; cases sp <;> rfl
  case space => intro sp; cases sp <;> rfl

theorem State.resetOf_cursorsInRange (c : Config) : (State.resetOf c).CursorsInRange :=
  ⟨c.coOrigin_zero, c.ciOrigin_zero, c.k_pos.trans c.k_le_h, c.k_pos.trans c.k_le_w, c.k_pos⟩

/-- Settles O8: the fields are the reset values, position 0 is in range, and a memory with nothing listed is canonical. -/
theorem resetStateIsIdle : Obligations.ResetStateIsIdle := by
  unfold Obligations.ResetStateIsIdle
  intro c
  exact ⟨rfl, rfl, rfl, rfl, rfl, fun _ _ _ => ⟨by simp [State.accAt, State.resetOf], by simp [State.accTagAt, State.resetOf]⟩,
    State.resetOf_cursorsInRange c, State.resetOf_space_wf c .input, State.resetOf_space_wf c .weights,
    State.resetOf_space_wf c .biases, State.resetOf_space_wf c .output⟩

/-! ### The configuration -/

theorem exec_keeps_cfg {i : Instr} {s t : State} (h : exec i s = .next t) : t.cfg = s.cfg := by
  rw [(exec_next_iff.mp h).2, effectOf_cfg]

theorem engineMove_keeps_cfg {s t : State} (h : engineMove s = .next t) : t.cfg = s.cfg := by
  rcases engineMove_cases h with ⟨i, -, hi⟩ | ⟨-, -, rfl⟩ | ⟨-, -, rfl⟩
  · exact exec_keeps_cfg hi
  · rfl
  · rfl

/-- The host's step is an operation, or it leaves parameter, position and ring cursor alone. -/
theorem hostMove_keeps_control {m : HostMove} {s t : State} (h : hostMove m s = .next t) :
    (∃ i, exec i s = .next t) ∨ (t.cfg = s.cfg ∧ t.pc = s.pc ∧ t.rowPtr = s.rowPtr) := by
  rcases hostMove_cases h with ⟨i, -, hi⟩ | ⟨sp, r, rfl⟩ | ⟨sp, bytes, rfl⟩ | ⟨sp, a, v, -, rfl⟩ | ⟨v, rfl⟩
  · exact .inl ⟨i, hi⟩
  all_goals exact .inr (by simp)

theorem hostMove_keeps_cfg {m : HostMove} {s t : State} (h : hostMove m s = .next t) : t.cfg = s.cfg := by
  rcases hostMove_keeps_control h with ⟨i, hi⟩ | ⟨hcfg, -, -⟩
  · exact exec_keeps_cfg hi
  · exact hcfg

/-- Settles O40: no agent's move writes the parameter. -/
theorem stepKeepsConfiguration : Obligations.StepKeepsConfiguration := by
  unfold Obligations.StepKeepsConfiguration
  intro s t h
  obtain ⟨a, -, hengine | ⟨m, hhost⟩ | ⟨w, i, -, hdriver⟩ | rfl⟩ := step_cases h
  · exact (engineMove_keeps_cfg hengine :)
  · exact (hostMove_keeps_cfg hhost :)
  · exact (exec_keeps_cfg hdriver :)
  · rfl

/-! ### The cursors -/

/-- The cursors lie in the ranges of `10_state.md` R23 to R26 for a run in progress. -/
abbrev Pos.InScan (c : Config) (p : Pos) : Prop :=
  c.CoOrigin p.co0 ∧ c.CiOrigin p.ci0 ∧ p.y < c.h ∧ c.ScanColumn p.x

theorem scanColumn_first (c : Config) : c.ScanColumn (c.k - 1) := by
  have := c.k_pos
  have := c.k_le_w
  exact ⟨Nat.le_refl _, by omega⟩

theorem runStart_inScan (c : Config) : (runStart c).InScan c :=
  ⟨c.coOrigin_zero, c.ciOrigin_zero, c.k_pos.trans c.k_le_h, scanColumn_first c⟩

/-- Where `advance()` goes (`40_control_sequencer.md` R123): the next column, the next row, the next tile of input channels,
the next tile of output channels, or the end. -/
theorem Pos.advance_cases (c : Config) (p : Pos) :
    (p.x < c.w - 1 ∧ p.advance c = { p with phase := .buildWindow, x := p.x + 1 }) ∨
    (c.w - 1 ≤ p.x ∧ p.y < c.h - 1 ∧ p.advance c = { p with phase := .pushRow, y := p.y + 1, x := c.k - 1 }) ∨
    (c.w - 1 ≤ p.x ∧ c.h - 1 ≤ p.y ∧ p.ci0 < c.cin - c.ciTile ∧
      p.advance c = ⟨.loadWeights, p.co0, p.ci0 + c.ciTile, 0, c.k - 1⟩) ∨
    (c.w - 1 ≤ p.x ∧ c.h - 1 ≤ p.y ∧ c.cin - c.ciTile ≤ p.ci0 ∧ p.co0 < c.cout - c.coTile ∧
      p.advance c = ⟨.loadWeights, p.co0 + c.coTile, 0, 0, c.k - 1⟩) ∨
    (c.w - 1 ≤ p.x ∧ c.h - 1 ≤ p.y ∧ c.cin - c.ciTile ≤ p.ci0 ∧ c.cout - c.coTile ≤ p.co0 ∧
      p.advance c = { p with phase := .finish }) := by
  by_cases hx : p.x < c.w - 1
  · exact .inl ⟨hx, by rw [Pos.advance, if_pos hx]⟩
  have hx' := Nat.le_of_not_lt hx
  by_cases hy : p.y < c.h - 1
  · exact .inr (.inl ⟨hx', hy, by rw [Pos.advance, if_neg hx, if_pos hy]⟩)
  have hy' := Nat.le_of_not_lt hy
  by_cases hci : p.ci0 < c.cin - c.ciTile
  · exact .inr (.inr (.inl ⟨hx', hy', hci, by rw [Pos.advance, if_neg hx, if_neg hy, if_pos hci]⟩))
  have hci' := Nat.le_of_not_lt hci
  by_cases hco : p.co0 < c.cout - c.coTile
  · exact .inr (.inr (.inr (.inl
      ⟨hx', hy', hci', hco, by rw [Pos.advance, if_neg hx, if_neg hy, if_neg hci, if_pos hco]⟩)))
  · exact .inr (.inr (.inr (.inr ⟨hx', hy', hci', Nat.le_of_not_lt hco,
      by rw [Pos.advance, if_neg hx, if_neg hy, if_neg hci, if_neg hco]⟩)))

theorem Pos.InScan.advance {c : Config} {p : Pos} (h : p.InScan c) : (p.advance c).InScan c := by
  obtain ⟨hco, hci, hy, hk, hx⟩ := h
  have h0 : 0 < c.h := Nat.zero_lt_of_lt hy
  rcases p.advance_cases c with ⟨hlt, he⟩ | ⟨-, hlt, he⟩ | ⟨-, -, hlt, he⟩ | ⟨-, -, -, hlt, he⟩ | ⟨-, -, -, -, he⟩ <;> rw [he]
  · exact ⟨hco, hci, hy, Nat.le_succ_of_le hk, Nat.add_lt_of_lt_sub hlt⟩
  · exact ⟨hco, hci, Nat.add_lt_of_lt_sub hlt, scanColumn_first c⟩
  · exact ⟨hco, c.ciOrigin_step hci hlt, h0, scanColumn_first c⟩
  · exact ⟨c.coOrigin_step hco hlt, c.ciOrigin_zero, h0, scanColumn_first c⟩
  · exact ⟨hco, hci, hy, hk, hx⟩

theorem State.cursors_of_inScan {s : State} (h : s.pc.InScan s.cfg) (hr : s.rowPtr < s.cfg.k) :
    s.CursorsInRange ∧ s.ColumnVisited := by
  obtain ⟨hco, hci, hy, hk, hx⟩ := h
  exact ⟨⟨hco, hci, hy, hx, hr⟩, fun _ => hk⟩

theorem State.rowPushed_pc (s : State) (y ci0 : Nat) :
    (s.rowPushed y ci0).pc = if s.cfg.k - 1 ≤ y then { s.pc with phase := .buildWindow, x := s.cfg.k - 1 }
      else { s.pc with phase := .pushRow, y := y + 1, x := s.cfg.k - 1 } := rfl

theorem State.rowPushed_pc_inScan (s : State) (hco : s.cfg.CoOrigin s.pc.co0) (hci : s.cfg.CiOrigin s.pc.ci0)
    (hy : s.pc.y < s.cfg.h) : (s.rowPushed s.pc.y s.pc.ci0).pc.InScan s.cfg := by
  have := s.cfg.k_le_h
  rw [State.rowPushed_pc]
  split
  · exact ⟨hco, hci, hy, scanColumn_first s.cfg⟩
  · exact ⟨hco, hci, show s.pc.y + 1 < s.cfg.h by omega, scanColumn_first s.cfg⟩

theorem State.accumulated_pc_inScan (s : State) (y x : Nat) (h : s.pc.InScan s.cfg) :
    (s.accumulated y x).pc.InScan s.cfg := by
  rw [State.accumulated_pc]
  split
  · exact h
  · exact h.advance

/-- An operation that completes leaves every cursor in its range, and `X` where the schedule has it; only `WAIT_DONE` takes
`X` as it finds it. -/
theorem exec_keeps_cursors {i : Instr} {s t : State} (hs : s.CursorsInRange) (hcol : i = .waitDone → s.ColumnVisited)
    (h : exec i s = .next t) : t.CursorsInRange ∧ t.ColumnVisited := by
  have hinv := hs
  obtain ⟨hco, hci, hy, hx, hr⟩ := hs
  have hk := s.cfg.k_pos
  have hpixel : s.cfg.isPixel s.pc.y s.pc.x = true → s.pc.InScan s.cfg := fun hpix =>
    have ⟨_, hy, hx⟩ := (isPixel_iff ..).mp hpix
    ⟨hco, hci, hy, hx⟩
  rcases exec_next_cases h with ⟨-, hp, rfl⟩ | ⟨hi, rfl | rfl⟩ | ⟨-, -, rfl⟩ | ⟨-, -, -, -, rfl⟩ | ⟨-, -, -, -, rfl⟩ |
    ⟨-, -, hpix, rfl⟩ | ⟨-, -, hpix, rfl⟩ | ⟨-, -, hpix, -, -, rfl⟩ | ⟨-, -, rfl⟩
  · exact ⟨hinv, fun hne => absurd hp hne⟩
  · exact ⟨hinv, hcol hi⟩
  · exact ⟨hinv, hcol hi⟩
  · exact State.cursors_of_inScan (runStart_inScan s.cfg) hr
  · exact State.cursors_of_inScan ⟨hco, hci, Nat.zero_lt_of_lt hy, scanColumn_first s.cfg⟩ hk
  · exact State.cursors_of_inScan (s.rowPushed_pc_inScan hco hci hy) (Nat.mod_lt _ hk)
  · exact State.cursors_of_inScan (hpixel hpix) hr
  · exact State.cursors_of_inScan (s.accumulated_pc_inScan _ _ (hpixel hpix)) hr
  · exact State.cursors_of_inScan (hpixel hpix).advance hr
  · exact ⟨hinv, fun hne => absurd rfl hne⟩

/-- The driver's placement does not move a cursor out of its range where the operation then completes (log 18). -/
theorem placedAt_cursorsInRange {i : Instr} {s t : State} (hs : s.CursorsInRange)
    (h : exec i { s with pc := s.pc.placedAt i } = .next t) :
    ({ s with pc := s.pc.placedAt i } : State).CursorsInRange := by
  obtain ⟨hco, hci, hy, hx, hr⟩ := hs
  have atPixel {ph : Phase} {y x : Nat} (hpix : s.cfg.isPixel y x = true) :
      ({ s with pc := { s.pc with phase := ph, y := y, x := x } } : State).CursorsInRange := by
    obtain ⟨-, hy', -, hx'⟩ := (isPixel_iff ..).mp hpix
    exact ⟨hco, hci, hy', hx', hr⟩
  cases i with
  | loadWeights co0 ci0 =>
    obtain ⟨⟨⟨-, -, -, hco', hci'⟩, -⟩, -⟩ := execLoadWeights_next_iff.mp h
    exact ⟨hco', hci', hy, hx, hr⟩
  | pushRow y ci0 =>
    obtain ⟨⟨⟨-, -, -, -, hy', hci'⟩, -⟩, -⟩ := execPushRow_next_iff.mp h
    exact ⟨hco, hci', hy', hx, hr⟩
  | buildWindow y x =>
    obtain ⟨⟨-, hpix, -⟩, -⟩ := execBuildWindow_next_iff.mp h
    exact atPixel hpix
  | accumulate y x =>
    obtain ⟨⟨-, hpix, -⟩, -⟩ := execAccumulate_next_iff.mp h
    exact atPixel hpix
  | requantizeWrite y x =>
    obtain ⟨⟨-, hpix, -⟩, -⟩ := execRequantizeWrite_next_iff.mp h
    exact atPixel hpix
  | _ => exact ⟨hco, hci, hy, hx, hr⟩

theorem engineMove_keeps_cursors {s t : State} (hs : s.CursorsInRange) (hcol : s.ColumnVisited)
    (h : engineMove s = .next t) : t.CursorsInRange ∧ t.ColumnVisited := by
  rcases engineMove_cases h with ⟨i, -, hi⟩ | ⟨-, -, rfl⟩ | ⟨-, -, rfl⟩
  · exact exec_keeps_cursors hs (fun _ => hcol) hi
  · obtain ⟨-, -, -, -, hr⟩ := hs
    exact State.cursors_of_inScan (runStart_inScan s.cfg) hr
  · exact ⟨hs, hcol⟩

theorem hostMove_keeps_cursors {m : HostMove} {s t : State} (hs : s.CursorsInRange) (hcol : s.ColumnVisited)
    (h : hostMove m s = .next t) : t.CursorsInRange ∧ t.ColumnVisited := by
  rcases hostMove_keeps_control h with ⟨i, hi⟩ | ⟨hcfg, hpc, hptr⟩
  · exact exec_keeps_cursors hs (fun _ => hcol) hi
  · rw [State.CursorsInRange, State.ColumnVisited, hcfg, hpc, hptr]
    exact ⟨hs, hcol⟩

/-- The driver's turn: the placement lets `X` stand below `K-1`, but no operation that completes from there keeps it. -/
theorem driver_keeps_cursors {i : Instr} {s t : State} (hs : s.CursorsInRange) (hcol : s.ColumnVisited)
    (h : exec i { s with pc := s.pc.placedAt i } = .next t) : t.CursorsInRange ∧ t.ColumnVisited :=
  exec_keeps_cursors (placedAt_cursorsInRange hs h) (fun hi => by subst hi; exact hcol) h

/-- Settles O39: the ranges are kept by the moves of the engine, the host and the driver, and the reset event puts every
cursor to 0. -/
theorem stepKeepsCursorsInRange : Obligations.StepKeepsCursorsInRange := by
  unfold Obligations.StepKeepsCursorsInRange
  intro s t hs hcol h
  obtain ⟨a, -, hengine | ⟨m, hhost⟩ | ⟨w, i, -, hdriver⟩ | rfl⟩ := step_cases h
  · exact engineMove_keeps_cursors (s := { s with agenda := a }) hs hcol hengine
  · exact hostMove_keeps_cursors (s := { s with agenda := a }) hs hcol hhost
  · exact driver_keeps_cursors (s := { s with agenda := a }) hs hcol hdriver
  · exact ⟨State.resetOf_cursorsInRange s.cfg, fun hne => absurd rfl hne⟩

end Sys2Proof.Machine
end

section
/-! How the next-state function moves the counts that the run's invariant speaks of: pure facts of positions. -/

namespace Sys2Proof.Machine

/-- The place of the current pixel in scan order. -/
def Pos.pixel (c : Config) (p : Pos) : Nat := c.outCoord p.y * c.ow + c.outCoord p.x

/-- `State.OutputWritten` at a position. -/
def Pos.Written (c : Config) (p : Pos) (co oy ox : Nat) : Prop :=
  co < p.co0 ∨ (co < p.co0 + c.coTile ∧ p.ci0 = c.cin - c.ciTile ∧ oy * c.ow + ox < p.pixelsWritten c)

theorem State.outputWritten_iff (s : State) (co oy ox : Nat) :
    s.OutputWritten co oy ox ↔ s.pc.Written s.cfg co oy ox := Iff.rfl

theorem Pos.Scheduled.inScan {c : Config} {p : Pos} (h : p.Scheduled c) : p.InScan c := by
  obtain ⟨hco, hci, hy, hx, -⟩ := h
  exact ⟨hco, hci, hy, hx⟩

/-! ### The arithmetic of scan order -/

theorem outCoord_succ (c : Config) {x : Nat} (hx : c.k - 1 ≤ x) : c.outCoord (x + 1) = c.outCoord x + 1 := by
  unfold Config.outCoord
  omega

theorem outCoord_last_column (c : Config) {x : Nat} (hx : x < c.w) (hl : c.w - 1 ≤ x) : c.outCoord x + 1 = c.ow := by
  have := c.k_le_w
  have := c.k_pos
  unfold Config.outCoord Config.ow
  omega

theorem outCoord_last_row (c : Config) {y : Nat} (hy : y < c.h) (hl : c.h - 1 ≤ y) : c.outCoord y + 1 = c.oh := by
  have := c.k_le_h
  have := c.k_pos
  unfold Config.outCoord Config.oh
  omega

/-- The rows above row `y` of pixels are those of the input rows pushed before it. -/
theorem rows_before_eq_outCoord (c : Config) (y : Nat) : y + 1 - c.k = c.outCoord y := by
  have := c.k_pos
  unfold Config.outCoord
  omega

/-- After the last column the next row's first pixel follows. -/
theorem Pos.pixel_row_end {c : Config} {p : Pos} (hx : p.x < c.w) (hl : c.w - 1 ≤ p.x) :
    p.pixel c + 1 = (c.outCoord p.y + 1) * c.ow := by
  rw [Pos.pixel, Nat.succ_mul, Nat.add_assoc, outCoord_last_column c hx hl]

/-- The last pixel of a scan. -/
theorem Pos.pixel_scan_end {c : Config} {p : Pos} (hy : p.y < c.h) (hx : p.x < c.w) (hlx : c.w - 1 ≤ p.x)
    (hly : c.h - 1 ≤ p.y) : p.pixel c + 1 = c.oh * c.ow := by
  rw [Pos.pixel_row_end hx hlx, outCoord_last_row c hy hly]

/-! ### Where a pixel is finished -/

/-- After a pixel's last operation the schedule is at the next pixel of the scan, or the scan is over and the next one begins,
or the run ends. -/
theorem Pos.advance_counts {c : Config} {p : Pos} (h : p.InScan c) (hk : c.k - 1 ≤ p.y) :
    ((p.advance c).co0 = p.co0 ∧ (p.advance c).ci0 = p.ci0 ∧ (p.advance c).pixelsAccumulated c = p.pixel c + 1 ∧
      (p.advance c).phase ≠ .requantizeWrite) ∨
    (p.pixel c + 1 = c.oh * c.ow ∧ p.ci0 < c.cin - c.ciTile ∧
      p.advance c = ⟨.loadWeights, p.co0, p.ci0 + c.ciTile, 0, c.k - 1⟩) ∨
    (p.pixel c + 1 = c.oh * c.ow ∧ c.cin - c.ciTile ≤ p.ci0 ∧
      p.advance c = ⟨.loadWeights, p.co0 + c.coTile, 0, 0, c.k - 1⟩) := by
  obtain ⟨-, -, hy, hkx, hx⟩ := h
  rcases p.advance_cases c with ⟨-, he⟩ | ⟨hlx, -, he⟩ | ⟨hlx, hly, hlt, he⟩ | ⟨hlx, hly, hci, -, he⟩ |
    ⟨hlx, hly, -, -, he⟩
  · left
    rw [he]
    refine ⟨rfl, rfl, ?_, by simp⟩
    simp only [Pos.pixelsAccumulated, Pos.pixel, outCoord_succ c hkx, Nat.add_assoc]
  · left
    rw [he]
    refine ⟨rfl, rfl, ?_, by simp⟩
    simp only [Pos.pixelsAccumulated, rows_before_eq_outCoord, outCoord_succ c hk, Pos.pixel_row_end hx hlx]
  · exact .inr (.inl ⟨Pos.pixel_scan_end hy hx hlx hly, hlt, he⟩)
  · exact .inr (.inr ⟨Pos.pixel_scan_end hy hx hlx hly, hci, he⟩)
  · left
    rw [he]
    exact ⟨rfl, rfl, (Pos.pixel_scan_end hy hx hlx hly).symm, by simp⟩

/-! ### The next position is scheduled -/

theorem Pos.Scheduled.pixelRow {c : Config} {p : Pos} (h : p.Scheduled c)
    (hp : p.phase = .buildWindow ∨ p.phase = .accumulate ∨ p.phase = .requantizeWrite) : c.k - 1 ≤ p.y := by
  obtain ⟨-, -, -, -, h⟩ := h
  rcases hp with hp | hp | hp <;> rw [hp] at h
  · exact h
  · exact h
  · exact h.1

theorem Pos.Scheduled.lastTile {c : Config} {p : Pos} (h : p.Scheduled c) (hp : p.phase = .requantizeWrite) :
    p.ci0 = c.cin - c.ciTile := by
  obtain ⟨-, -, -, -, h⟩ := h
  rw [hp] at h
  exact h.2

theorem Pos.Scheduled.loadBias_eq {c : Config} {p : Pos} (h : p.Scheduled c) (hp : p.phase = .loadBias) :
    p = runStart c := by
  obtain ⟨-, -, -, -, h⟩ := h
  rw [hp] at h
  exact h

theorem Pos.Scheduled.ci0_le {c : Config} {p : Pos} (h : p.Scheduled c) : p.ci0 ≤ c.cin - c.ciTile := by
  obtain ⟨-, ⟨-, hle⟩, -⟩ := h
  exact hle

theorem Pos.advance_scheduled {c : Config} {p : Pos} (h : p.InScan c) (hk : c.k - 1 ≤ p.y) : (p.advance c).Scheduled c := by
  have hnext := h.advance
  obtain ⟨⟨-, hco⟩, ⟨-, hci⟩, -⟩ := h
  obtain ⟨hco', hci', hy', hx'⟩ := hnext
  refine ⟨hco', hci', hy', hx', ?_⟩
  rcases p.advance_cases c with ⟨-, he⟩ | ⟨-, -, he⟩ | ⟨-, -, -, he⟩ | ⟨-, -, -, -, he⟩ | ⟨-, -, hci', hco', he⟩ <;> rw [he]
  · exact hk
  · exact ⟨rfl, rfl⟩
  · exact ⟨rfl, rfl⟩
  · exact ⟨Nat.le_antisymm hco hco', Nat.le_antisymm hci hci'⟩

theorem Pos.Scheduled.next {c : Config} {p : Pos} (h : p.Scheduled c) (hf : p.phase ≠ .finish) : (p.next c).Scheduled c := by
  have hscan := h.inScan
  obtain ⟨hco, hci, hy, hx, hphase⟩ := h
  have hpos : 0 < c.h := Nat.zero_lt_of_lt hy
  have := c.k_le_h
  cases hp : p.phase <;> simp only [hp] at hphase <;> simp only [Pos.next, hp]
  case finish => exact absurd hp hf
  case loadBias => exact ⟨c.coOrigin_zero, c.ciOrigin_zero, hpos, scanColumn_first c, rfl, rfl⟩
  case loadWeights => exact ⟨hco, hci, hpos, scanColumn_first c, rfl⟩
  case pushRow =>
    split
    · exact ⟨hco, hci, hy, scanColumn_first c, by assumption⟩
    · exact ⟨hco, hci, show p.y + 1 < c.h by omega, scanColumn_first c, rfl⟩
  case buildWindow => exact ⟨hco, hci, hy, hx, hphase⟩
  case accumulate =>
    split
    · exact ⟨hco, hci, hy, hx, hphase, by assumption⟩
    · exact Pos.advance_scheduled hscan hphase
  case requantizeWrite => exact Pos.advance_scheduled hscan hphase.1

/-! ### The counts at the next position -/

theorem Pos.channelsDone_of_accumulated {c : Config} {p : Pos} {n : Nat} (h : p.pixelsAccumulated c = n) (oy ox : Nat) :
    p.channelsDone c oy ox = if oy * c.ow + ox < n then p.ci0 + c.ciTile else p.ci0 := by rw [Pos.channelsDone, h]

theorem Pos.channelsDone_scanStart (c : Config) (co0 ci0 y x oy ox : Nat) :
    (Pos.mk .loadWeights co0 ci0 y x).channelsDone c oy ox = ci0 :=
  (Pos.channelsDone_of_accumulated rfl oy ox).trans (if_neg (Nat.not_lt_zero _))

theorem Pos.pixelsWritten_of_phase {c : Config} {p : Pos} (h : p.phase ≠ .requantizeWrite) :
    p.pixelsWritten c = p.pixelsAccumulated c := if_neg h

theorem Pos.pixelsWritten_requantizeWrite {c : Config} {p : Pos} (h : p.phase = .requantizeWrite) :
    p.pixelsWritten c = p.pixel c := if_pos h

/-- At the start of a scan only the earlier output tiles are written. -/
theorem Pos.written_scanStart {c : Config} {co0 ci0 y x co oy ox : Nat}
    (h : (Pos.mk .loadWeights co0 ci0 y x).Written c co oy ox) : co < co0 := by
  rcases h with h | ⟨-, -, h⟩
  · exact h
  · exact absurd h (Nat.not_lt_zero _)

theorem Pos.accumulated_at_accumulate {c : Config} {p : Pos} (h : p.phase = .accumulate) :
    p.pixelsAccumulated c = p.pixel c := by simp only [Pos.pixelsAccumulated, h, Pos.pixel]

theorem Pos.accumulated_at_requantizeWrite {c : Config} {p : Pos} (h : p.phase = .requantizeWrite) :
    p.pixelsAccumulated c = p.pixel c + 1 := by simp only [Pos.pixelsAccumulated, h, Pos.pixel]

/-- The operations before a pixel's `ACCUMULATE` stay in the scan and count nothing. -/
theorem Pos.next_counts {c : Config} {p : Pos} (h : p.Scheduled c) (ha : p.phase ≠ .accumulate)
    (hr : p.phase ≠ .requantizeWrite) (hf : p.phase ≠ .finish) :
    (p.next c).co0 = p.co0 ∧ (p.next c).ci0 = p.ci0 ∧ (p.next c).pixelsAccumulated c = p.pixelsAccumulated c ∧
      (p.next c).phase ≠ .requantizeWrite := by
  have hk := c.k_pos
  cases hp : p.phase with
  | idle => simp [Pos.next, hp]
  | loadBias =>
    obtain rfl := h.loadBias_eq hp
    exact ⟨rfl, rfl, rfl, by simp [Pos.next, runStart]⟩
  | loadWeights =>
    have : 0 + 1 - c.k = 0 := by omega
    simp [Pos.next, hp, Pos.pixelsAccumulated, this]
  | pushRow =>
    simp only [Pos.next, hp]
    split
    · simp [Pos.pixelsAccumulated, hp, rows_before_eq_outCoord, Config.outCoord]
    · have h1 : p.y + 1 + 1 - c.k = 0 := by omega
      have h2 : p.y + 1 - c.k = 0 := by omega
      simp [Pos.pixelsAccumulated, hp, h1, h2]
  | buildWindow => simp [Pos.next, hp, Pos.pixelsAccumulated]
  | accumulate => exact absurd hp ha
  | requantizeWrite => exact absurd hp hr
  | finish => exact absurd hp hf

/-- `ACCUMULATE` counts the current pixel's bank up by one tile, and no other. -/
theorem Pos.next_channelsDone_accumulate {c : Config} {p : Pos} (h : p.Scheduled c) (hp : p.phase = .accumulate)
    {oy ox : Nat} (hoy : oy < c.oh) (hox : ox < c.ow) :
    (p.next c).co0 = p.co0 ∧ (p.next c).channelsDone c oy ox =
      if oy * c.ow + ox = p.pixel c then p.ci0 + c.ciTile else p.channelsDone c oy ox := by
  have hlt : oy * c.ow + ox < c.oh * c.ow := pixel_lt hoy hox
  rw [Pos.channelsDone_of_accumulated (p := p) (Pos.accumulated_at_accumulate hp)]
  have hsame {q : Pos} (hci : q.ci0 = p.ci0) (hpix : q.pixelsAccumulated c = p.pixel c + 1) :
      q.channelsDone c oy ox = if oy * c.ow + ox = p.pixel c then p.ci0 + c.ciTile else
        if oy * c.ow + ox < p.pixel c then p.ci0 + c.ciTile else p.ci0 := by
    rw [Pos.channelsDone_of_accumulated hpix, hci]
    split_ifs <;> omega
  simp only [Pos.next, hp]
  split
  · exact ⟨rfl, hsame rfl rfl⟩
  · rename_i hnl
    rcases Pos.advance_counts h.inScan (h.pixelRow (.inr (.inl hp))) with ⟨hco, hci, hpix, -⟩ | ⟨hend, -, he⟩ | ⟨-, hge, -⟩
    · exact ⟨hco, hsame hci hpix⟩
    · rw [he, Pos.channelsDone_scanStart]
      refine ⟨rfl, ?_⟩
      split_ifs <;> omega
    · exact absurd (Nat.le_antisymm h.ci0_le hge) hnl

/-- No other operation counts a bank up: a bank that counts at the next position counted the same before. -/
theorem Pos.next_channelsDone {c : Config} {p : Pos} (h : p.Scheduled c) (ha : p.phase ≠ .accumulate)
    (hf : p.phase ≠ .finish) {oy ox : Nat} (hpos : 0 < (p.next c).channelsDone c oy ox) :
    (p.next c).co0 = p.co0 ∧ (p.next c).channelsDone c oy ox = p.channelsDone c oy ox := by
  by_cases hr : p.phase = .requantizeWrite
  · simp only [Pos.next, hr] at hpos ⊢
    rcases Pos.advance_counts h.inScan (h.pixelRow (.inr (.inr hr))) with ⟨hco, hci, hpix, -⟩ | ⟨-, hlt, -⟩ | ⟨-, -, he⟩
    · rw [Pos.channelsDone_of_accumulated hpix, hci, Pos.channelsDone_of_accumulated (Pos.accumulated_at_requantizeWrite hr)]
      exact ⟨hco, rfl⟩
    · exact absurd hlt (by rw [h.lastTile hr]; exact Nat.lt_irrefl _)
    · rw [he, Pos.channelsDone_scanStart] at hpos
      exact absurd hpos (Nat.lt_irrefl 0)
  · obtain ⟨hco, hci, hpix, -⟩ := Pos.next_counts h ha hr hf
    rw [Pos.channelsDone_of_accumulated hpix, hci]
    exact ⟨hco, rfl⟩

/-- No operation but `REQUANTIZE_WRITE` counts an output element as written. -/
theorem Pos.next_written {c : Config} {p : Pos} (h : p.Scheduled c) (hr : p.phase ≠ .requantizeWrite)
    (hf : p.phase ≠ .finish) {co oy ox : Nat} (hw : (p.next c).Written c co oy ox) : p.Written c co oy ox := by
  by_cases ha : p.phase = .accumulate
  · have hbefore := (Pos.pixelsWritten_of_phase hr).trans (Pos.accumulated_at_accumulate (c := c) ha)
    simp only [Pos.next, ha] at hw
    split at hw
    · rw [Pos.Written, Pos.pixelsWritten_requantizeWrite rfl] at hw
      rw [Pos.Written, hbefore]
      exact hw
    · rename_i hnl
      rcases Pos.advance_counts h.inScan (h.pixelRow (.inr (.inl ha))) with ⟨hco, hci, -, -⟩ | ⟨-, -, he⟩ | ⟨-, hge, -⟩
      · rw [Pos.Written, hco, hci] at hw
        exact hw.imp_right fun ⟨_, hlast, _⟩ => absurd hlast hnl
      · exact .inl (Pos.written_scanStart (he ▸ hw))
      · exact absurd (Nat.le_antisymm h.ci0_le hge) hnl
  · obtain ⟨hco, hci, hpix, hphase⟩ := Pos.next_counts h ha hr hf
    rwa [Pos.Written, hco, hci, Pos.pixelsWritten_of_phase hphase, hpix, ← Pos.pixelsWritten_of_phase hr] at hw

/-- `REQUANTIZE_WRITE` counts the current pixel's lanes as written, and no other element. -/
theorem Pos.next_written_requantizeWrite {c : Config} {p : Pos} (h : p.Scheduled c) (hp : p.phase = .requantizeWrite)
    {co oy ox : Nat} (hoy : oy < c.oh) (hox : ox < c.ow) (hw : (p.next c).Written c co oy ox) :
    p.Written c co oy ox ∨ (p.co0 ≤ co ∧ co < p.co0 + c.coTile ∧ oy * c.ow + ox = p.pixel c) := by
  have hlt : oy * c.ow + ox < c.oh * c.ow := pixel_lt hoy hox
  have hlast := h.lastTile hp
  have hupto (hco : co < p.co0 + c.coTile) (hpix : oy * c.ow + ox < p.pixel c + 1) :
      p.Written c co oy ox ∨ (p.co0 ≤ co ∧ co < p.co0 + c.coTile ∧ oy * c.ow + ox = p.pixel c) := by
    rw [Pos.Written, Pos.pixelsWritten_requantizeWrite hp]
    omega
  simp only [Pos.next, hp] at hw
  rcases Pos.advance_counts h.inScan (h.pixelRow (.inr (.inr hp))) with ⟨hco, hci, hpix, hphase⟩ | ⟨-, hlt', -⟩ | ⟨hend, -, he⟩
  · rw [Pos.Written, hco, hci, Pos.pixelsWritten_of_phase hphase, hpix] at hw
    rcases hw with hw | ⟨hco', -, hpix'⟩
    · exact .inl (.inl hw)
    · exact hupto hco' hpix'
  · exact absurd hlt' (by rw [hlast]; exact Nat.lt_irrefl _)
  · exact hupto (Pos.written_scanStart (he ▸ hw)) (hend ▸ hlt)

end Sys2Proof.Machine
end

section
/-! Each micro-operation of the fixed schedule completes where the run's invariant holds, and keeps it. -/

namespace Sys2Proof.Machine

/-! ### Frames of the invariant's parts -/

/-- The parameter and the three input spaces are those of `s`: what the schedule's values are computed from. -/
structure SameInputs (s t : State) : Prop where
  cfg : t.cfg = s.cfg
  inMem : t.inMem = s.inMem
  wgtMem : t.wgtMem = s.wgtMem
  biasMem : t.biasMem = s.biasMem

theorem effectOf_sameInputs (i : Instr) (s : State) : SameInputs s (effectOf i s) :=
  ⟨effectOf_cfg i s, effectOf_space (sp := .input) i s (by decide), effectOf_space (sp := .weights) i s (by decide),
    effectOf_space (sp := .biases) i s (by decide)⟩

theorem SameInputs.partialAcc {s t : State} (h : SameInputs s t) (co oy ox n : Nat) :
    t.partialAcc co oy ox n = s.partialAcc co oy ox n := by
  simp only [State.partialAcc, State.biasWord, State.inputAt, State.weightAt, h.cfg, h.inMem, h.wgtMem, h.biasMem]

theorem SameInputs.bigStepOut {s t : State} (h : SameInputs s t) (co oy ox : Nat) :
    t.bigStepOut co oy ox = s.bigStepOut co oy ox := by rw [State.bigStepOut, h.partialAcc, h.cfg, State.bigStepOut]

theorem State.BanksHold.of_frame {s t : State} (h : s.BanksHold) (hin : SameInputs s t) (hacc : t.acc = s.acc)
    (htag : t.accTag = s.accTag)
    (hcount : ∀ oy ox, 0 < t.pc.channelsDone s.cfg oy ox →
      t.pc.co0 = s.pc.co0 ∧ t.pc.channelsDone s.cfg oy ox = s.pc.channelsDone s.cfg oy ox) : t.BanksHold := by
  intro oy hoy ox hox hpos
  rw [hin.cfg] at hoy hox hpos ⊢
  obtain ⟨hco, hch⟩ := hcount oy ox hpos
  simp only [State.accTagAt, State.accAt, hin.partialAcc, hacc, htag, hco, hch]
  exact h oy hoy ox hox (hch ▸ hpos)

theorem State.OutputHolds.of_frame {s t : State} (h : s.OutputHolds) (hin : SameInputs s t) (hout : t.outMem = s.outMem)
    (hw : ∀ co oy ox, t.pc.Written s.cfg co oy ox → s.pc.Written s.cfg co oy ox) : t.OutputHolds := by
  intro oy hoy ox hox co hco hwritten
  rw [State.outputWritten_iff, hin.cfg] at hwritten
  rw [hin.cfg] at hoy hox hco
  rw [State.outputAt, hin.bigStepOut, hin.cfg, hout]
  exact h oy hoy ox hox co hco (hw co oy ox hwritten)

/-- What the operations of a scan find in the buffers: bias vector, weight tile, and the `n` rows pushed. -/
def State.ScanHolds (s : State) (n : Nat) : Prop := s.BiasLoaded ∧ s.TileLoaded ∧ s.RingHolds n

/-- The inputs and the buffers of a scan are those of `s`; window, banks and `OUT` may differ. -/
structure SameScanBuffers (s t : State) : Prop extends SameInputs s t where
  bias : t.bias = s.bias
  biasValid : t.biasValid = s.biasValid
  wbuf : t.wbuf = s.wbuf
  wbufTag : t.wbufTag = s.wbufTag
  lineBuf : t.lineBuf = s.lineBuf
  rowPtr : t.rowPtr = s.rowPtr
  rowsPushed : t.rowsPushed = s.rowsPushed

theorem accumulated_sameScanBuffers (s : State) (y x : Nat) : SameScanBuffers s (s.accumulated y x) :=
  ⟨effectOf_sameInputs (.accumulate y x) s, rfl, rfl, rfl, rfl, rfl, rfl, rfl⟩

theorem requantized_sameScanBuffers (s : State) (y x : Nat) : SameScanBuffers s (s.requantized y x) :=
  ⟨effectOf_sameInputs (.requantizeWrite y x) s, rfl, rfl, rfl, rfl, rfl, rfl, rfl⟩

theorem State.BiasLoaded.of_frame {s t : State} (h : s.BiasLoaded) (hf : SameScanBuffers s t) : t.BiasLoaded := by
  simp only [State.BiasLoaded, State.biasAt, State.biasWord, hf.cfg, hf.biasMem, hf.bias, hf.biasValid]
  exact h

theorem State.ScanHolds.of_frame {s t : State} {n : Nat} (h : s.ScanHolds n) (hf : SameScanBuffers s t)
    (hco : t.pc.co0 = s.pc.co0) (hci : t.pc.ci0 = s.pc.ci0) : t.ScanHolds n := by
  obtain ⟨hbias, htile, hring⟩ := h
  refine ⟨hbias.of_frame hf, ?_, ?_⟩
  · simp only [State.TileLoaded, State.wbufAt, State.weightAt, hf.cfg, hf.wgtMem, hf.wbuf, hf.wbufTag, hco, hci]
    exact htile
  · simp only [State.RingHolds, State.lineAt, State.inputAt, hf.cfg, hf.inMem, hf.lineBuf, hf.rowPtr, hf.rowsPushed, hci]
    exact hring

/-- After a pixel's last operation the buffers hold what the next pixel, row or scan needs. -/
theorem State.ScanHolds.advance {s t : State} (h : s.ScanHolds (s.pc.y + 1)) (hf : SameScanBuffers s t)
    (hpc : t.pc = s.pc.advance s.cfg) : t.BuffersHold := by
  rcases s.pc.advance_cases s.cfg with ⟨-, he⟩ | ⟨-, -, he⟩ | ⟨-, -, -, he⟩ | ⟨-, -, -, -, he⟩ | ⟨-, -, -, -, he⟩ <;>
    rw [he] at hpc <;> simp only [State.BuffersHold, hpc]
  · exact h.of_frame hf (by rw [hpc]) (by rw [hpc])
  · exact h.of_frame hf (by rw [hpc]) (by rw [hpc])
  · exact h.1.of_frame hf
  · exact h.1.of_frame hf

/-! ### The invariant at the next position, from its parts -/

theorem State.buffersFit_of_sizes {s t : State} (h : s.buffersFit = true) (hin : SameInputs s t)
    (hout : t.outMem.size = s.outMem.size) : t.buffersFit = true := by
  rw [State.buffersFit, hin.cfg, hin.inMem, hin.wgtMem, hin.biasMem, hout]
  exact h

/-- An operation that writes neither banks nor `OUT` keeps the invariant if the buffers hold what the next phase needs. -/
theorem State.RunInv.of_bufferStep {s t : State} {ph : Phase} (h : s.RunInv) (hp : s.pc.phase = ph)
    (hph : ph ≠ .accumulate ∧ ph ≠ .requantizeWrite ∧ ph ≠ .finish) (hin : SameInputs s t) (hpc : t.pc = s.pc.next s.cfg)
    (hacc : t.acc = s.acc) (htag : t.accTag = s.accTag) (hout : t.outMem = s.outMem) (hbuf : t.BuffersHold) : t.RunInv := by
  subst hp
  obtain ⟨ha, hr, hf⟩ := hph
  obtain ⟨hwf, hfit, hsched, -, hbanks, houtput⟩ := h
  refine ⟨hout ▸ hwf, State.buffersFit_of_sizes hfit hin (hout ▸ rfl), ?_, hbuf, ?_, ?_⟩
  · rw [hpc, hin.cfg]
    exact hsched.next hf
  · exact hbanks.of_frame hin hacc htag fun oy ox hpos => by rw [hpc] at hpos ⊢; exact Pos.next_channelsDone hsched ha hf hpos
  · exact houtput.of_frame hin hout fun co oy ox hw => Pos.next_written hsched hr hf (hpc ▸ hw)

/-! ### `LOAD_BIAS` and `LOAD_WEIGHTS` -/

theorem State.buffersFit_iff (s : State) : s.buffersFit = true ↔
    s.cfg.inBytes ≤ s.inMem.size ∧ s.cfg.wgtBytes ≤ s.wgtMem.size ∧ s.cfg.biasBytes ≤ s.biasMem.size ∧
      s.cfg.outBytes ≤ s.outMem.size := by simp [State.buffersFit]

theorem State.RunInv.exec_loadBias {s : State} (h : s.RunInv) (hp : s.pc.phase = .loadBias) :
    exec .loadBias s = .next s.biasLoaded ∧ s.biasLoaded.RunInv := by
  have hinv := h
  obtain ⟨-, hfit, -⟩ := h
  obtain ⟨-, -, hbias, -⟩ := s.buffersFit_iff.mp hfit
  refine ⟨execLoadBias_next_iff.mpr ⟨⟨hp, hbias⟩, rfl⟩, ?_⟩
  refine hinv.of_bufferStep hp (by decide) (effectOf_sameInputs .loadBias s) ?_ rfl rfl rfl ?_
  · simp [Pos.next, hp]
  · exact ⟨rfl, fun i hi => s.biasLoaded_biasAt hi⟩

theorem State.RunInv.exec_loadWeights {s : State} (h : s.RunInv) (hp : s.pc.phase = .loadWeights) :
    exec (.loadWeights s.pc.co0 s.pc.ci0) s = .next (s.weightsLoaded s.pc.co0 s.pc.ci0) ∧
      (s.weightsLoaded s.pc.co0 s.pc.ci0).RunInv := by
  have hinv := h
  obtain ⟨-, hfit, ⟨hco, hci, -⟩, hbuf, -⟩ := h
  obtain ⟨-, hwgt, -⟩ := s.buffersFit_iff.mp hfit
  simp only [State.BuffersHold, hp] at hbuf
  refine ⟨execLoadWeights_next_iff.mpr ⟨⟨⟨hp, rfl, rfl, hco, hci⟩, hwgt⟩, rfl⟩, ?_⟩
  refine hinv.of_bufferStep hp (by decide) (effectOf_sameInputs (.loadWeights _ _) s) ?_ rfl rfl rfl ?_
  · simp [Pos.next, hp]
  · refine ⟨hbuf, ⟨rfl, fun co hco ci hci ky hky kx hkx => s.weightsLoaded_wbufAt _ _ hco hci hky hkx⟩, rfl, ?_, ?_⟩
    · exact (Nat.zero_mod _).symm
    · exact fun r hr => absurd hr (Nat.not_lt_zero r)

/-! ### `PUSH_ROW` -/

@[simp] theorem State.rowPushed_pc_co0 (s : State) (y ci0 : Nat) : (s.rowPushed y ci0).pc.co0 = s.pc.co0 := by
  rw [State.rowPushed_pc]; split <;> rfl

@[simp] theorem State.rowPushed_pc_ci0 (s : State) (y ci0 : Nat) : (s.rowPushed y ci0).pc.ci0 = s.pc.ci0 := by
  rw [State.rowPushed_pc]; split <;> rfl

/-- Fewer than `k` rows apart means another slot of the ring. -/
theorem ringSlot_ne {k r n : Nat} (h : r < n) (hn : n < r + k) : r % k ≠ n % k := by
  intro he
  have hdvd : k ∣ n - r := (Nat.modEq_iff_dvd' (Nat.le_of_lt h)).mp he
  have := Nat.le_of_dvd (by omega) hdvd
  omega

/-- The new row takes the slot of the row `K` above it (`42_line_buffer_manager.md` R160). -/
theorem State.RingHolds.rowPushed {s : State} (h : s.RingHolds s.pc.y) :
    (s.rowPushed s.pc.y s.pc.ci0).RingHolds (s.pc.y + 1) := by
  obtain ⟨-, hptr, hrows⟩ := h
  have hk := s.cfg.k_pos
  refine ⟨by simp, by simp [hptr], fun r hr hn x hx ci hci => ?_⟩
  rw [State.rowPushed_cfg] at hn hx hci
  rw [State.rowPushed_pc_ci0]
  by_cases hry : r = s.pc.y
  · subst hry
    exact hptr ▸ s.rowPushed_lineAt_slot _ _ (hptr ▸ Nat.mod_lt _ hk) hx hci
  · have hlt : r < s.pc.y := by omega
    refine (s.rowPushed_lineAt_other _ _ _ _ (Nat.mod_lt _ hk) ?_).trans (hrows r hlt (by omega) x hx ci hci)
    rw [hptr]
    exact ringSlot_ne hlt hn

theorem State.ScanHolds.rowPushed {s : State} (h : s.ScanHolds s.pc.y) :
    (s.rowPushed s.pc.y s.pc.ci0).ScanHolds (s.pc.y + 1) := by
  obtain ⟨hbias, htile, hring⟩ := h
  refine ⟨hbias, ?_, hring.rowPushed⟩
  rw [State.TileLoaded, State.rowPushed_pc_co0, State.rowPushed_pc_ci0]
  exact htile

theorem State.RunInv.exec_pushRow {s : State} (h : s.RunInv) (hp : s.pc.phase = .pushRow) :
    exec (.pushRow s.pc.y s.pc.ci0) s = .next (s.rowPushed s.pc.y s.pc.ci0) ∧ (s.rowPushed s.pc.y s.pc.ci0).RunInv := by
  have hinv := h
  obtain ⟨-, hfit, ⟨-, hci, hy, -⟩, hbuf, -⟩ := h
  obtain ⟨hin, -⟩ := s.buffersFit_iff.mp hfit
  simp only [State.BuffersHold, hp] at hbuf
  have hscan := State.ScanHolds.rowPushed hbuf
  obtain ⟨-, -, hrows, -⟩ := hbuf
  refine ⟨execPushRow_next_iff.mpr ⟨⟨⟨hp, rfl, rfl, hrows, hy, hci⟩, hin⟩, rfl⟩, ?_⟩
  refine hinv.of_bufferStep hp (by decide) (effectOf_sameInputs (.pushRow _ _) s) ?_ rfl rfl rfl ?_
  · simp [Pos.next, hp, State.rowPushed_pc]
  · by_cases hk : s.cfg.k - 1 ≤ s.pc.y
    · simp only [State.BuffersHold, State.rowPushed_pc, if_pos hk]
      exact hscan
    · simp only [State.BuffersHold, State.rowPushed_pc, if_neg hk]
      exact hscan

/-! ### `BUILD_WINDOW` -/

/-- The ring holds the neighbourhood of the pixel at `(y, x)` (`43_window_assembler.md` R170). -/
theorem State.RingHolds.windowSource {s : State} {y x : Nat} (h : s.RingHolds (y + 1)) (hky : s.cfg.k - 1 ≤ y)
    (hx : s.cfg.ScanColumn x) {ky kx ci : Nat} (hky' : ky < s.cfg.k) (hkx : kx < s.cfg.k) (hci : ci < s.cfg.ciTile) :
    s.windowSource x ky kx ci =
      some (s.inputAt (s.cfg.outCoord y + ky) (s.cfg.outCoord x + kx) (s.pc.ci0 + ci)) := by
  obtain ⟨-, hptr, hrows⟩ := h
  obtain ⟨hkx', hxw⟩ := hx
  have hslot : s.slot ky = (s.cfg.outCoord y + ky) % s.cfg.k := by
    rw [State.slot, hptr, Nat.mod_add_mod, ← Nat.add_mod_right (s.cfg.outCoord y + ky)]
    congr 1
    unfold Config.outCoord
    omega
  rw [State.windowSource, hslot]
  refine hrows _ ?_ ?_ _ ?_ ci hci
  all_goals simp only [Config.outCoord, Config.windowColumn]; omega

theorem State.RunInv.isPixel {s : State} (h : s.RunInv)
    (hp : s.pc.phase = .buildWindow ∨ s.pc.phase = .accumulate ∨ s.pc.phase = .requantizeWrite) :
    s.cfg.isPixel s.pc.y s.pc.x = true := by
  obtain ⟨-, -, hsched, -⟩ := h
  obtain ⟨-, -, hy, hx⟩ := hsched.inScan
  exact (isPixel_iff ..).mpr ⟨hsched.pixelRow hp, hy, hx⟩

theorem State.RunInv.exec_buildWindow {s : State} (h : s.RunInv) (hp : s.pc.phase = .buildWindow) :
    exec (.buildWindow s.pc.y s.pc.x) s = .next (s.windowBuilt s.pc.y s.pc.x) ∧
      (s.windowBuilt s.pc.y s.pc.x).RunInv := by
  have hinv := h
  obtain ⟨-, -, hsched, hbuf, -⟩ := h
  simp only [State.BuffersHold, hp] at hbuf
  obtain ⟨hbias, htile, hring⟩ := hbuf
  obtain ⟨-, -, -, hx⟩ := hsched.inScan
  have hrows := hring.1
  have hsource {ky kx ci : Nat} := hring.windowSource (ky := ky) (kx := kx) (ci := ci) (hsched.pixelRow (.inl hp)) hx
  have hheld : s.windowSourceHeld s.pc.x = true := decide_eq_true fun ky hky kx hkx ci hci => by
    rw [hsource hky hkx hci]; rfl
  refine ⟨execBuildWindow_next_iff.mpr ⟨⟨⟨hp, rfl, rfl⟩, hinv.isPixel (.inl hp), hrows, hheld⟩, rfl⟩, ?_⟩
  refine hinv.of_bufferStep hp (by decide) (effectOf_sameInputs (.buildWindow _ _) s) ?_ rfl rfl rfl ?_
  · simp [Pos.next, hp]
  · refine ⟨hbias, htile, hring, rfl, fun ky hky kx hkx ci hci => ?_⟩
    rw [State.windowBuilt_cfg] at hky hkx hci
    rw [State.windowBuilt_windowAt _ _ _ hky hkx hci, hsource hky hkx hci]
    rfl

/-! ### `ACCUMULATE` -/

theorem lane_lt_cout (c : Config) {co0 co : Nat} (h : c.CoOrigin co0) (hco : co < c.coTile) : co0 + co < c.cout := by
  obtain ⟨-, hle⟩ := h
  have := c.coTile_le
  omega

theorem State.partialAcc_zero (s : State) (co oy ox : Nat) : s.partialAcc co oy ox 0 = s.biasWord co := by
  rw [State.partialAcc, sumTo, Int.add_zero, wrap32_toInt]

/-- The bank of the current pixel is counted up to the tiles before this one. -/
theorem Pos.channelsDone_current {c : Config} {p : Pos} (hp : p.phase = .accumulate) :
    p.channelsDone c (c.outCoord p.y) (c.outCoord p.x) = p.ci0 :=
  (Pos.channelsDone_of_accumulated (Pos.accumulated_at_accumulate hp) _ _).trans (if_neg (Nat.lt_irrefl _))

/-- On a later tile the bank of the current pixel holds the channels before it (`10_state.md` R41). -/
theorem State.RunInv.bank_before {s : State} (h : s.RunInv) (hp : s.pc.phase = .accumulate) (hci : s.pc.ci0 ≠ 0) :
    s.accTagAt (s.cfg.outCoord s.pc.y) (s.cfg.outCoord s.pc.x) = some ⟨s.pc.co0, s.pc.ci0⟩ ∧
      ∀ co, co < s.cfg.coTile → s.accAt (s.cfg.outCoord s.pc.y) (s.cfg.outCoord s.pc.x) co =
        some (s.partialAcc (s.pc.co0 + co) (s.cfg.outCoord s.pc.y) (s.cfg.outCoord s.pc.x) s.pc.ci0) := by
  obtain ⟨-, -, hsched, -, hbanks, -⟩ := h
  obtain ⟨-, -, hy, -, hx⟩ := hsched.inScan
  have hcur := Pos.channelsDone_current (c := s.cfg) hp
  have := hbanks _ (s.cfg.outCoord_lt_oh hy) _ (s.cfg.outCoord_lt_ow hx) (by omega)
  rwa [hcur] at this

/-- Each lane starts from the value accumulated over the tiles before (`44_mac_accumulate_unit.md` R180). -/
theorem State.RunInv.laneBase {s : State} (h : s.RunInv) (hp : s.pc.phase = .accumulate) {co : Nat}
    (hco : co < s.cfg.coTile) :
    s.laneBase (s.cfg.outCoord s.pc.y) (s.cfg.outCoord s.pc.x) co =
      some (s.partialAcc (s.pc.co0 + co) (s.cfg.outCoord s.pc.y) (s.cfg.outCoord s.pc.x) s.pc.ci0) := by
  unfold State.laneBase
  by_cases hci : s.pc.ci0 = 0
  · obtain ⟨-, -, hsched, hbuf, -⟩ := h
    simp only [State.BuffersHold, hp] at hbuf
    obtain ⟨⟨-, hbias⟩, -⟩ := hbuf
    rw [if_pos (s.firstTile_iff.mpr hci), hbias _ (lane_lt_cout s.cfg hsched.inScan.1 hco), hci, State.partialAcc_zero]
  · rw [if_neg (fun hf => hci (s.firstTile_iff.mp hf))]
    exact (h.bank_before hp hci).2 co hco

/-- The taps of a lane are the products of the tile's channels (`44_mac_accumulate_unit.md` R180). -/
theorem State.laneSum_eq {s : State} (htile : s.TileLoaded) (hwin : s.WindowHolds) {co : Nat} (hco : co < s.cfg.coTile) :
    s.laneSum co = sumTo s.cfg.ciTile fun ci => sumTo s.cfg.k fun ky => sumTo s.cfg.k fun kx =>
      product (s.inputAt (s.cfg.outCoord s.pc.y + ky) (s.cfg.outCoord s.pc.x + kx) (s.pc.ci0 + ci))
        (s.weightAt (s.pc.co0 + co) (s.pc.ci0 + ci) ky kx) := by
  obtain ⟨-, hwgt⟩ := htile
  obtain ⟨-, hwin⟩ := hwin
  have htap {ky kx ci : Nat} (hky : ky < s.cfg.k) (hkx : kx < s.cfg.k) (hci : ci < s.cfg.ciTile) :
      s.tap co ky kx ci = product
        (s.inputAt (s.cfg.outCoord s.pc.y + ky) (s.cfg.outCoord s.pc.x + kx) (s.pc.ci0 + ci))
        (s.weightAt (s.pc.co0 + co) (s.pc.ci0 + ci) ky kx) := by
    rw [State.tap, hwin ky hky kx hkx ci hci, hwgt co hco ci hci ky hky kx hkx, Option.getD_some, Option.getD_some]
  calc s.laneSum co
      = sumTo s.cfg.k fun ky => sumTo s.cfg.ciTile fun ci => sumTo s.cfg.k fun kx => s.tap co ky kx ci :=
        sumTo_congr fun ky _ => sumTo_comm ..
    _ = sumTo s.cfg.ciTile fun ci => sumTo s.cfg.k fun ky => sumTo s.cfg.k fun kx => s.tap co ky kx ci := sumTo_comm ..
    _ = _ := sumTo_congr fun ci hci => sumTo_congr fun ky hky => sumTo_congr fun kx hkx => htap hky hkx hci

/-- The new running sum is the value accumulated over one tile more. -/
theorem State.laneResult_eq {s : State} (htile : s.TileLoaded) (hwin : s.WindowHolds) {co : Nat} (hco : co < s.cfg.coTile)
    (hbase : s.laneBase (s.cfg.outCoord s.pc.y) (s.cfg.outCoord s.pc.x) co =
      some (s.partialAcc (s.pc.co0 + co) (s.cfg.outCoord s.pc.y) (s.cfg.outCoord s.pc.x) s.pc.ci0)) :
    s.laneResult (s.cfg.outCoord s.pc.y) (s.cfg.outCoord s.pc.x) co =
      s.partialAcc (s.pc.co0 + co) (s.cfg.outCoord s.pc.y) (s.cfg.outCoord s.pc.x) (s.pc.ci0 + s.cfg.ciTile) := by
  rw [State.laneResult, hbase, Option.getD_some, State.laneSum_eq htile hwin hco, State.partialAcc, wrap32_add_wrap32,
    Int.add_assoc, ← sumTo_add, State.partialAcc]

/-- The scan position of a pixel is its output coordinates. -/
theorem Pos.eq_pixel_iff {c : Config} {p : Pos} (hx : p.x < c.w) {oy ox : Nat} (hox : ox < c.ow) :
    oy * c.ow + ox = p.pixel c ↔ oy = c.outCoord p.y ∧ ox = c.outCoord p.x :=
  ⟨pixel_injective hox (c.outCoord_lt_ow hx), fun ⟨hy, hx⟩ => by rw [hy, hx, Pos.pixel]⟩

theorem State.accumulated_pc_next {s : State} (hp : s.pc.phase = .accumulate) (y x : Nat) :
    (s.accumulated y x).pc = s.pc.next s.cfg := by
  simp only [State.accumulated_pc, Pos.next, hp, State.lastTile_iff]

/-- `ACCUMULATE` counts up the current bank (`44_mac_accumulate_unit.md` R180) and keeps the others. -/
theorem State.RunInv.banksHold_accumulated {s : State} (h : s.RunInv) (hp : s.pc.phase = .accumulate) :
    (s.accumulated s.pc.y s.pc.x).BanksHold := by
  have hinv := h
  obtain ⟨-, -, hsched, hbuf, hbanks, -⟩ := h
  simp only [State.BuffersHold, hp] at hbuf
  obtain ⟨-, htile, -, hwin⟩ := hbuf
  obtain ⟨-, -, hy, -, hx⟩ := hsched.inScan
  intro oy hoy ox hox hpos
  rw [State.accumulated_cfg] at hoy hox hpos ⊢
  obtain ⟨hco, hcount⟩ := Pos.next_channelsDone_accumulate hsched hp hoy hox
  rw [State.accumulated_pc_next hp] at hpos ⊢
  simp only [(accumulated_sameScanBuffers s _ _).partialAcc, hco, hcount, Pos.eq_pixel_iff hx hox] at hpos ⊢
  by_cases hcur : oy = s.cfg.outCoord s.pc.y ∧ ox = s.cfg.outCoord s.pc.x
  · simp only [if_pos hcur]
    obtain ⟨rfl, rfl⟩ := hcur
    refine ⟨s.accumulated_accTagAt_same _ _ hoy hox, fun co hco => ?_⟩
    rw [State.accumulated_accAt_same _ _ _ hoy hox hco, State.laneResult_eq htile hwin hco (hinv.laneBase hp hco)]
  · simp only [if_neg hcur] at hpos ⊢
    obtain ⟨htag, hacc⟩ := hbanks oy hoy ox hox hpos
    refine ⟨(s.accumulated_accTagAt_other _ _ hoy hox hcur).trans htag, fun co hco => ?_⟩
    rw [State.accumulated_accAt_other _ _ _ _ hoy hox hcur]
    exact hacc co hco

/-- The operands of the scheduled `ACCUMULATE` are the current ones (`10_state.md` R46). -/
theorem State.RunInv.operandsCurrent {s : State} (h : s.RunInv) (hp : s.pc.phase = .accumulate) :
    s.operandsCurrent s.pc.y s.pc.x = true := by
  have hbefore := h.bank_before hp
  obtain ⟨-, -, -, hbuf, -⟩ := h
  simp only [State.BuffersHold, hp] at hbuf
  obtain ⟨⟨hvalid, -⟩, ⟨hwbuf, -⟩, -, hwin, -⟩ := hbuf
  rw [State.operandsCurrent, hwin, hwbuf]
  by_cases hci : s.pc.ci0 = 0
  · simp [s.firstTile_iff.mpr hci, hvalid]
  · simp [mt s.firstTile_iff.mp hci, (hbefore hci).1]

theorem State.RunInv.lanesHeld {s : State} (h : s.RunInv) (hp : s.pc.phase = .accumulate) :
    s.lanesHeld (s.cfg.outCoord s.pc.y) (s.cfg.outCoord s.pc.x) = true := by
  have hbase {co : Nat} := h.laneBase hp (co := co)
  obtain ⟨-, -, -, hbuf, -⟩ := h
  simp only [State.BuffersHold, hp] at hbuf
  obtain ⟨-, ⟨-, hwgt⟩, -, -, hwin⟩ := hbuf
  refine decide_eq_true fun co hco => ⟨by rw [hbase hco]; rfl, fun ky hky kx hkx ci hci => ?_⟩
  rw [hwin ky hky kx hkx ci hci, hwgt co hco ci hci ky hky kx hkx]
  exact ⟨rfl, rfl⟩

theorem State.RunInv.exec_accumulate {s : State} (h : s.RunInv) (hp : s.pc.phase = .accumulate) :
    exec (.accumulate s.pc.y s.pc.x) s = .next (s.accumulated s.pc.y s.pc.x) ∧
      (s.accumulated s.pc.y s.pc.x).RunInv := by
  have hbanks := h.banksHold_accumulated hp
  refine ⟨execAccumulate_next_iff.mpr
    ⟨⟨⟨hp, rfl, rfl⟩, h.isPixel (.inr (.inl hp)), h.operandsCurrent hp, h.lanesHeld hp⟩, rfl⟩, ?_⟩
  obtain ⟨hwf, hfit, hsched, hbuf, -, hout⟩ := h
  simp only [State.BuffersHold, hp] at hbuf
  obtain ⟨hbias, htile, hring, -⟩ := hbuf
  have hscan : s.ScanHolds (s.pc.y + 1) := ⟨hbias, htile, hring⟩
  have hframe := accumulated_sameScanBuffers s s.pc.y s.pc.x
  have hpc := State.accumulated_pc_next hp s.pc.y s.pc.x
  refine ⟨hwf, hfit, ?_, ?_, hbanks, ?_⟩
  · rw [hpc, hframe.cfg]
    exact hsched.next (by simp [hp])
  · by_cases hl : s.lastTile = true
    · simp only [State.BuffersHold, State.accumulated_pc, if_pos hl]
      exact hscan.of_frame hframe (by simp [hl]) (by simp [hl])
    · exact hscan.advance hframe (by rw [State.accumulated_pc, if_neg hl])
  · exact hout.of_frame hframe.toSameInputs rfl fun co oy ox hw =>
      Pos.next_written hsched (by simp [hp]) (by simp [hp]) (hpc ▸ hw)

/-! ### `REQUANTIZE_WRITE` -/

/-- The bank of the current pixel is complete (`45_output_requantizer.md` R201). -/
theorem State.RunInv.bank_complete {s : State} (h : s.RunInv) (hp : s.pc.phase = .requantizeWrite) :
    s.accTagAt (s.cfg.outCoord s.pc.y) (s.cfg.outCoord s.pc.x) = some ⟨s.pc.co0, s.cfg.cin⟩ ∧
      ∀ co, co < s.cfg.coTile → s.accAt (s.cfg.outCoord s.pc.y) (s.cfg.outCoord s.pc.x) co =
        some (s.partialAcc (s.pc.co0 + co) (s.cfg.outCoord s.pc.y) (s.cfg.outCoord s.pc.x) s.cfg.cin) := by
  obtain ⟨-, -, hsched, -, hbanks, -⟩ := h
  obtain ⟨-, -, hy, -, hx⟩ := hsched.inScan
  have hcin := Nat.sub_add_cancel s.cfg.ciTile_le
  have hdone : s.pc.channelsDone s.cfg (s.cfg.outCoord s.pc.y) (s.cfg.outCoord s.pc.x) = s.cfg.cin := by
    rw [Pos.channelsDone_of_accumulated (Pos.accumulated_at_requantizeWrite hp), hsched.lastTile hp, hcin]
    exact if_pos (Nat.lt_succ_self _)
  have := hbanks _ (s.cfg.outCoord_lt_oh hy) _ (s.cfg.outCoord_lt_ow hx) (by rw [hdone]; exact s.cfg.cin_pos)
  rwa [hdone] at this

theorem laneOutput_offset (c : Config) (oy ox co0 co : Nat) : c.outIdx oy ox (co0 + co) = c.outIdx oy ox co0 + co :=
  (Nat.add_assoc ..).symm

/-- The bytes of the current pixel's lanes (`45_output_requantizer.md` R201). -/
theorem State.requantized_outputAt_lane {s : State} (hwf : s.outMem.wf) (y x : Nat) {co : Nat} (hco : co < s.cfg.coTile) :
    (s.requantized y x).outputAt (s.cfg.outCoord y) (s.cfg.outCoord x) (s.pc.co0 + co) =
      requant ((s.accAt (s.cfg.outCoord y) (s.cfg.outCoord x) co).getD 0) := by
  simp only [State.outputAt, State.requantized, State.laneOutput, laneOutput_offset]
  exact Memory.writeAll_read_lane _ hwf.1 _ (fun co => requant ((s.accAt _ _ co).getD 0)) hco

/-- Every other element of `OUT` is as before. -/
theorem State.requantized_outputAt_other {s : State} (y x : Nat) {oy ox co : Nat}
    (h : ∀ l, l < s.cfg.coTile →
      s.cfg.outIdx oy ox co ≠ s.cfg.outIdx (s.cfg.outCoord y) (s.cfg.outCoord x) (s.pc.co0 + l)) :
    (s.requantized y x).outputAt oy ox co = s.outputAt oy ox co := by
  refine Memory.writeAll_read_other _ _ _ fun e he => ?_
  obtain ⟨l, hl, rfl⟩ := List.mem_map.mp he
  exact h l (List.mem_range.mp hl)

/-- The writes stay inside `OUT` (`20_memory.md` R64, R65). -/
theorem State.RunInv.requantized_outMem_wf {s : State} (h : s.RunInv) : (s.requantized s.pc.y s.pc.x).outMem.wf := by
  obtain ⟨hwf, hfit, hsched, -⟩ := h
  obtain ⟨-, -, -, hsize⟩ := s.buffersFit_iff.mp hfit
  obtain ⟨hco, -, hy, -, hx⟩ := hsched.inScan
  refine Memory.writeAll_wf hwf fun e he => ?_
  obtain ⟨l, hl, rfl⟩ := List.mem_map.mp he
  exact Nat.lt_of_lt_of_le (s.cfg.outIdx_lt (s.cfg.outCoord_lt_oh hy) (s.cfg.outCoord_lt_ow hx)
    (lane_lt_cout s.cfg hco (List.mem_range.mp hl))) hsize

theorem State.requantized_pc_next {s : State} (hp : s.pc.phase = .requantizeWrite) (y x : Nat) :
    (s.requantized y x).pc = s.pc.next s.cfg := by simp only [State.requantized_pc, Pos.next, hp]

/-- `REQUANTIZE_WRITE` writes the big step's elements of the current pixel and keeps the earlier ones. -/
theorem State.RunInv.outputHolds_requantized {s : State} (h : s.RunInv) (hp : s.pc.phase = .requantizeWrite) :
    (s.requantized s.pc.y s.pc.x).OutputHolds := by
  obtain ⟨-, hbank⟩ := h.bank_complete hp
  obtain ⟨hwf, -, hsched, -, -, hout⟩ := h
  obtain ⟨horigin, -, hy, -, hx⟩ := hsched.inScan
  intro oy hoy ox hox co hco hwritten
  rw [State.outputWritten_iff, State.requantized_cfg, State.requantized_pc_next hp] at hwritten
  rw [State.requantized_cfg] at hoy hox hco
  rw [(requantized_sameScanBuffers s _ _).bigStepOut]
  by_cases hlane : (oy = s.cfg.outCoord s.pc.y ∧ ox = s.cfg.outCoord s.pc.x) ∧ s.pc.co0 ≤ co ∧
      co < s.pc.co0 + s.cfg.coTile
  · obtain ⟨⟨rfl, rfl⟩, hle, hlt⟩ := hlane
    obtain ⟨l, rfl⟩ := Nat.exists_eq_add_of_le hle
    have hl : l < s.cfg.coTile := Nat.lt_of_add_lt_add_left hlt
    rw [State.requantized_outputAt_lane hwf _ _ hl, hbank l hl, Option.getD_some, State.bigStepOut]
  · rw [State.requantized_outputAt_other]
    · rcases Pos.next_written_requantizeWrite hsched hp hoy hox hwritten with hw | ⟨hle, hlt, hpixel⟩
      · exact hout oy hoy ox hox co hco hw
      · exact absurd ⟨(Pos.eq_pixel_iff hx hox).mp hpixel, hle, hlt⟩ hlane
    · intro l hl heq
      obtain ⟨rfl, rfl, rfl⟩ := s.cfg.outIdx_injective hox hco (s.cfg.outCoord_lt_ow hx)
        (lane_lt_cout s.cfg horigin hl) heq
      exact hlane ⟨⟨rfl, rfl⟩, Nat.le_add_right .., Nat.add_lt_add_left hl _⟩

theorem State.RunInv.exec_requantizeWrite {s : State} (h : s.RunInv) (hp : s.pc.phase = .requantizeWrite) :
    exec (.requantizeWrite s.pc.y s.pc.x) s = .next (s.requantized s.pc.y s.pc.x) ∧
      (s.requantized s.pc.y s.pc.x).RunInv := by
  have hframe := requantized_sameScanBuffers s s.pc.y s.pc.x
  have hpc := State.requantized_pc_next hp s.pc.y s.pc.x
  have hwf := h.requantized_outMem_wf
  have hout := h.outputHolds_requantized hp
  have hpixel := h.isPixel (.inr (.inr hp))
  obtain ⟨htag, hbank⟩ := h.bank_complete hp
  obtain ⟨-, hfit, hsched, hbuf, hbanks, -⟩ := h
  obtain ⟨-, -, -, hsize⟩ := s.buffersFit_iff.mp hfit
  simp only [State.BuffersHold, hp] at hbuf
  have hheld : s.bankHeld (s.cfg.outCoord s.pc.y) (s.cfg.outCoord s.pc.x) = true :=
    decide_eq_true fun co hco => by rw [hbank co hco]; rfl
  refine ⟨execRequantizeWrite_next_iff.mpr ⟨⟨⟨hp, rfl, rfl⟩, hpixel, hsched.lastTile hp, htag, hsize, hheld⟩, rfl⟩, ?_⟩
  refine ⟨hwf, State.buffersFit_of_sizes hfit hframe.toSameInputs (Memory.writeAll_size _ _), ?_,
    State.ScanHolds.advance hbuf hframe rfl, ?_, hout⟩
  · rw [hpc, hframe.cfg]
    exact hsched.next (by simp [hp])
  · exact hbanks.of_frame hframe.toSameInputs rfl rfl fun oy ox hpos => by
      rw [hpc] at hpos ⊢
      exact Pos.next_channelsDone hsched (by simp [hp]) (by simp [hp]) hpos

/-! ### The step -/

theorem step_of_empty_agenda {s : State} {i : Instr} (ha : s.agenda = []) (hi : s.pc.instr = some i) :
    step s = exec i s := by simp only [step, takeTurn, ha, engineMove, hi]

/-- In the fixed schedule the operation `PHASE` names completes and keeps the invariant. -/
theorem State.RunInv.exec_scheduled {s : State} (h : s.RunInv) (hf : s.pc.phase ≠ .finish) :
    ∃ i t, s.pc.instr = some i ∧ exec i s = .next t ∧ t.RunInv := by
  cases hp : s.pc.phase with
  | idle =>
    obtain ⟨-, -, -, hbuf, -⟩ := h
    simp only [State.BuffersHold, hp] at hbuf
  | loadBias => exact ⟨_, _, by simp only [Pos.instr, hp], h.exec_loadBias hp⟩
  | loadWeights => exact ⟨_, _, by simp only [Pos.instr, hp], h.exec_loadWeights hp⟩
  | pushRow => exact ⟨_, _, by simp only [Pos.instr, hp], h.exec_pushRow hp⟩
  | buildWindow => exact ⟨_, _, by simp only [Pos.instr, hp], h.exec_buildWindow hp⟩
  | accumulate => exact ⟨_, _, by simp only [Pos.instr, hp], h.exec_accumulate hp⟩
  | requantizeWrite => exact ⟨_, _, by simp only [Pos.instr, hp], h.exec_requantizeWrite hp⟩
  | finish => exact absurd hp hf

/-- Settles O51: with no turn listed the step is the scheduled operation, which keeps the invariant and the agenda. -/
theorem stepKeepsRunInv : Obligations.StepKeepsRunInv := by
  unfold Obligations.StepKeepsRunInv
  intro s ha h hf
  obtain ⟨i, t, hi, hexec, ht⟩ := h.exec_scheduled hf
  have hagenda : t.agenda = [] := by rw [(exec_next_iff.mp hexec).2, effectOf_agenda, ha]
  exact ⟨t, (step_of_empty_agenda ha hi).trans hexec, ht, hagenda⟩

end Sys2Proof.Machine
end

section
/-! The canonical form of memory, space by space, and the one operation that writes memory. -/

namespace Sys2Proof.Machine

theorem State.memoryWf_iff (s : State) : s.MemoryWf ↔ ∀ sp, (s.space sp).wf := by
  constructor
  · rintro ⟨hin, hwgt, hbias, hout⟩ sp
    cases sp <;> assumption
  · intro h
    exact ⟨h .input, h .weights, h .biases, h .output⟩

theorem State.MemoryWf.withSpace {s : State} (h : s.MemoryWf) (sp : Space) {m : Memory} (hm : m.wf) :
    (s.withSpace sp m).MemoryWf := by
  rw [State.memoryWf_iff] at h ⊢
  intro sp'
  by_cases hsp : sp' = sp
  · rw [hsp, State.withSpace_space]
    exact hm
  · rw [State.withSpace_space_ne s m hsp]
    exact h sp'

theorem State.MemoryWf.withRef {s : State} (h : s.MemoryWf) (sp : Space) (r : Ref) : (s.withRef sp r).MemoryWf := by
  cases sp <;> exact h

/-- The lanes of a pixel of a tile lie inside `OUT`, whoever issues the operation (`20_memory.md` R64, R65). -/
theorem State.requantized_outMem_wf {s : State} {y x : Nat} (h : s.outMem.wf) (hco : s.cfg.CoOrigin s.pc.co0)
    (hpix : s.cfg.isPixel y x = true) (hsize : s.cfg.outBytes ≤ s.outMem.size) : (s.requantized y x).outMem.wf := by
  obtain ⟨-, hy, -, hx⟩ := (isPixel_iff ..).mp hpix
  refine Memory.writeAll_wf h fun e he => ?_
  obtain ⟨l, hl, rfl⟩ := List.mem_map.mp he
  have hlane := lane_lt_cout s.cfg hco (List.mem_range.mp hl)
  exact Nat.lt_of_lt_of_le (s.cfg.outIdx_lt (s.cfg.outCoord_lt_oh hy) (s.cfg.outCoord_lt_ow hx) hlane) hsize

/-- An operation that completes writes no space but `OUT`, and `OUT` by the lanes of `REQUANTIZE_WRITE` alone. -/
theorem exec_keeps_memoryWf {i : Instr} {s t : State} (hs : s.CursorsInRange) (hm : s.MemoryWf)
    (h : exec i s = .next t) : t.MemoryWf := by
  obtain ⟨-, rfl⟩ := exec_next_iff.mp h
  obtain ⟨hco, -⟩ := hs
  rw [State.memoryWf_iff] at hm ⊢
  intro sp
  cases sp with
  | output =>
    cases i with
    | requantizeWrite y x =>
      obtain ⟨⟨-, hpix, -, -, hsize, -⟩, -⟩ := execRequantizeWrite_next_iff.mp h
      exact State.requantized_outMem_wf (hm .output) hco hpix hsize
    | _ => exact hm .output
  | _ =>
    rw [effectOf_space i s (by decide)]
    exact hm _

theorem engineMove_keeps_memoryWf {s t : State} (hs : s.CursorsInRange) (hm : s.MemoryWf)
    (h : engineMove s = .next t) : t.MemoryWf := by
  rcases engineMove_cases h with ⟨i, -, hi⟩ | ⟨-, -, rfl⟩ | ⟨-, -, rfl⟩
  · exact exec_keeps_memoryWf hs hm hi
  · exact hm
  · exact hm

theorem hostMove_keeps_memoryWf {m : HostMove} {s t : State} (hs : s.CursorsInRange) (hm : s.MemoryWf)
    (h : hostMove m s = .next t) : t.MemoryWf := by
  rcases hostMove_cases h with ⟨i, -, hi⟩ | ⟨sp, r, rfl⟩ | ⟨sp, bytes, rfl⟩ | ⟨sp, a, v, ha, rfl⟩ | ⟨v, rfl⟩
  · exact exec_keeps_memoryWf hs hm hi
  · exact hm.withRef sp r
  · exact hm.withSpace sp (Memory.ofBytes_wf bytes)
  · exact hm.withSpace sp (Memory.write_wf (s.memoryWf_iff.mp hm sp) ha)
  · exact hm

/-- Settles O38: the engine and the driver write `OUT` only, inside it; the host writes inside a buffer or provides a
canonical one; the reset event leaves memory as it is. -/
theorem stepKeepsMemoryWf : Obligations.StepKeepsMemoryWf := by
  unfold Obligations.StepKeepsMemoryWf
  intro s t hs hm h
  obtain ⟨a, -, hengine | ⟨m, hhost⟩ | ⟨w, i, -, hdriver⟩ | rfl⟩ := step_cases h
  · exact engineMove_keeps_memoryWf (s := { s with agenda := a }) hs hm hengine
  · exact hostMove_keeps_memoryWf (s := { s with agenda := a }) hs hm hhost
  · exact exec_keeps_memoryWf (placedAt_cursorsInRange (s := { s with agenda := a }) hs hdriver) hm hdriver
  · exact hm

end Sys2Proof.Machine
end

section
/-! The host's moves on buffers and references: when they are allowed, and what each answers. -/

namespace Sys2Proof.Machine

/-! ### When the host may touch what -/

theorem State.hostMayTouch_iff (s : State) : s.hostMayTouch = true ↔ s.pc.phase = .idle ∧ s.duty ≠ .awaiting := by
  simp [State.hostMayTouch, State.busy]

/-- Reading `OUT` asks for more than the other accesses: no run may have been cut short (log 8). -/
theorem State.hostMayRead_iff (s : State) (sp : Space) :
    s.hostMayRead sp = true ↔ s.hostMayTouch = true ∧ (sp = .output → s.duty = .free) := by
  cases sp with
  | output => cases hd : s.duty <;> simp [State.hostMayRead, State.hostMayReadOut, State.hostMayTouch, hd]
  | _ => simp [State.hostMayRead]

/-! ### What each move answers -/

theorem step_host {s : State} {m : HostMove} {rest : List Turn} (h : s.agenda = .host m :: rest) (hm : m ≠ .waitDone) :
    step s = hostMove m { s with agenda := rest } := by
  have hwaits : hostWaits m s = false := by simp [hostWaits, hm]
  simp only [step, takeTurn, h, hwaits, Bool.false_eq_true, if_false]

theorem hostRead_not_allowed {s : State} {sp : Space} (h : ¬ s.hostMayRead sp = true) (a : Nat) :
    hostRead sp a s = .refused .b8HostAccess := by
  rw [hostRead, Bool.eq_false_iff.mpr h, checked_first_fails]

theorem hostRead_inside {s : State} {sp : Space} {a : Nat} (h : s.hostMayRead sp = true) (ha : a < (s.space sp).size) :
    hostRead sp a s = .next (s.sees (.byte ((s.space sp).read a))) := by
  rw [hostRead, h, checked_first_holds, checked_nil, if_pos ha]

theorem hostRead_past_end {s : State} {sp : Space} {a : Nat} (h : s.hostMayRead sp = true) (ha : (s.space sp).size ≤ a) :
    hostRead sp a s = .fault (.noSuchByte sp a) := by
  rw [hostRead, h, checked_first_holds, checked_nil, if_neg (Nat.not_lt.mpr ha)]

theorem hostWrite_inside {s : State} {sp : Space} {a : Nat} (h : s.hostMayTouch = true) (ha : a < (s.space sp).size)
    (v : I8) : hostWrite sp a v s = .next (s.withSpace sp ((s.space sp).write a v)) := by
  rw [hostWrite, h, checked_first_holds, checked_nil, if_pos ha]

theorem hostWrite_past_end {s : State} {sp : Space} {a : Nat} (h : s.hostMayTouch = true) (ha : (s.space sp).size ≤ a)
    (v : I8) : hostWrite sp a v s = .fault (.noSuchByte sp a) := by
  rw [hostWrite, h, checked_first_holds, checked_nil, if_neg (Nat.not_lt.mpr ha)]

theorem hostMove_readRef {s : State} (h : s.hostMayTouch = true) (sp : Space) :
    hostMove (.readRef sp) s = .next (s.sees (.handle (s.ref sp).handle)) := by
  rw [hostMove, h, checked_first_holds, checked_nil]

/-- The moves that touch a buffer or a reference are all under the same ban (`70_reset_and_hazards.md` R280 (2)). -/
theorem hostMove_not_allowed {s : State} {m : HostMove} (h : ¬ s.hostMayTouch = true) (hstart : m ≠ .start)
    (hwait : m ≠ .waitDone) : hostMove m s = .refused .b8HostAccess := by
  have hf := Bool.eq_false_iff.mpr h
  cases m with
  | start => exact absurd rfl hstart
  | waitDone => exact absurd rfl hwait
  | read sp a => exact hostRead_not_allowed (fun hr => h ((s.hostMayRead_iff sp).mp hr).1) a
  | write sp a v => rw [hostMove, hostWrite, hf, checked_first_fails]
  | _ => rw [hostMove, hf, checked_first_fails]

theorem State.withSpace_eq (s : State) (sp : Space) (m : Memory) :
    s.withSpace sp m =
      { s with
        inMem := (s.withSpace sp m).inMem
        wgtMem := (s.withSpace sp m).wgtMem
        biasMem := (s.withSpace sp m).biasMem
        outMem := (s.withSpace sp m).outMem } := by cases sp <;> rfl

/-! ### The statements -/

/-- Settles O15: a busy engine or an outstanding `DONE` is exactly where the host may not touch. -/
theorem hostTouchesNothingWhileBusy : Obligations.HostTouchesNothingWhileBusy := by
  unfold Obligations.HostTouchesNothingWhileBusy
  intro s m rest h hbusy hstart hwait
  rw [step_host h hwait]
  refine hostMove_not_allowed (fun hmay => ?_) hstart hwait
  obtain ⟨hp, hd⟩ := (State.hostMayTouch_iff _).mp hmay
  exact hbusy.elim (absurd hp) (absurd · hd)

/-- Settles O16: the write replaces one space by the memory with that byte written. -/
theorem hostWriteLands : Obligations.HostWriteLands := by
  unfold Obligations.HostWriteLands
  intro s sp a v rest h hp hd ha ⟨hrising, _⟩
  have hmay : ({ s with agenda := rest } : State).hostMayTouch = true := (State.hostMayTouch_iff _).mpr ⟨hp, hd⟩
  have hread := Memory.read_write (s.space sp) a (v := v) (h := hrising)
  refine ⟨_, (step_host h (by simp)).trans (hostWrite_inside hmay ha v), ?_, fun b hb => ?_, ?_,
    fun sp' hsp => State.withSpace_space_ne _ _ hsp, State.withSpace_eq _ _ _⟩
  all_goals rw [State.withSpace_space]
  · exact (hread a).trans (if_pos rfl)
  · exact (hread b).trans (if_neg hb)
  · exact Memory.write_size _ _ _

/-- Settles O17: where the host may read, the answer is the state that has seen the value. -/
theorem hostReadsBack : Obligations.HostReadsBack := by
  unfold Obligations.HostReadsBack
  intro s sp rest hp hd
  have hmay : ({ s with agenda := rest } : State).hostMayTouch = true := (State.hostMayTouch_iff _).mpr ⟨hp, hd⟩
  refine ⟨fun a h hfree ha => ?_, fun a h hout hcut => ?_, fun h => ?_⟩
  · exact (step_host h (by simp)).trans (hostRead_inside ((State.hostMayRead_iff _ sp).mpr ⟨hmay, hfree⟩) ha)
  · refine (step_host h (by simp)).trans (hostRead_not_allowed (fun hread => ?_) a)
    have hfree : s.duty = .free := ((State.hostMayRead_iff _ sp).mp hread).2 hout
    exact absurd (hcut.symm.trans hfree) (by decide)
  · exact (step_host h (by simp)).trans (hostMove_readRef hmay sp)

/-- Settles O18: with `duty` free every access is allowed, and only the offset is out of range. -/
theorem hostPastEndFaults : Obligations.HostPastEndFaults := by
  unfold Obligations.HostPastEndFaults
  intro s sp a rest hp hfree ha
  have hmay : ({ s with agenda := rest } : State).hostMayTouch = true :=
    (State.hostMayTouch_iff _).mpr ⟨hp, by simp [hfree]⟩
  refine ⟨fun h => ?_, fun v h => ?_⟩
  · exact (step_host h (by simp)).trans (hostRead_past_end ((State.hostMayRead_iff _ sp).mpr ⟨hmay, fun _ => hfree⟩) ha)
  · exact (step_host h (by simp)).trans (hostWrite_past_end hmay ha v)

end Sys2Proof.Machine
end

section
/-! Encoding: an engine operation is its opcode and two operand fields, a word is the same three numbers, and the decoder is
the inverse of the encoder (`30_encoding.md` R93 to R98). -/

namespace Sys2Proof

open Sys2Proof.Laws.Opcode (opcodeOf)

/-! ### The fields of an operation -/

/-- The field `a` of an operation's word; an operation without operands has 0 there (`30_encoding.md` R94, R97). -/
def Instr.operandA : Instr → Nat
  | .loadWeights co0 _ => co0
  | .pushRow y _ => y
  | .buildWindow y _ => y
  | .accumulate y _ => y
  | .requantizeWrite y _ => y
  | _ => 0

/-- The field `b` of an operation's word; an operation without operands has 0 there (`30_encoding.md` R94, R97). -/
def Instr.operandB : Instr → Nat
  | .loadWeights _ ci0 => ci0
  | .pushRow _ ci0 => ci0
  | .buildWindow _ x => x
  | .accumulate _ x => x
  | .requantizeWrite _ x => x
  | _ => 0

theorem opcodeOf_le (i : Instr) : opcodeOf i ≤ 7 := by cases i <;> simp [opcodeOf]

theorem Instr.wf_iff (i : Instr) : i.wf = true ↔ i.operandA < 2 ^ 14 ∧ i.operandB < 2 ^ 14 := by
  cases i <;> simp [Instr.wf, fitsField, Instr.operandA, Instr.operandB]

theorem fieldWord_eq_some_iff {i : Instr} {w : OpWord} :
    fieldWord i = some w ↔ i.hasWord = true ∧ packWord (opcodeOf i) i.operandA i.operandB = w := by
  cases i <;> simp [fieldWord, Instr.hasWord, opcodeOf, Instr.operandA, Instr.operandB]

theorem decodeFields_eq_ok_iff {op a b : Nat} {i : Instr} :
    decodeFields op a b = .ok i ↔
      i.hasWord = true ∧ opcodeOf i = op ∧ i.operandA = a ∧ i.operandB = b := by
  constructor
  · intro h
    unfold decodeFields at h
    split at h
    case h_1 | h_7 =>
      split at h
      · rename_i hzero
        obtain ⟨rfl, rfl⟩ := hzero
        cases h
        decide
      · cases h
    case h_8 => cases h
    all_goals
      cases h
      exact ⟨rfl, rfl, rfl, rfl⟩
  · rintro ⟨hword, rfl, rfl, rfl⟩
    cases i with
    | start => cases hword
    | waitDone => cases hword
    | _ => rfl

/-! ### The decoder is the inverse of the encoder -/

/-- Both sides say that the operation's fields are the word's: the decoder drops no bit, the encoder no operand. -/
theorem decode_eq_ok_iff {w : OpWord} {i : Instr} : decode w = .ok i ↔ encode i = some w := by
  rw [encode_eq_some, fieldWord_eq_some_iff]
  constructor
  · intro h
    obtain ⟨hword, hop, ha, hb⟩ := decodeFields_eq_ok_iff.mp h
    refine ⟨i.wf_iff.mpr ⟨ha ▸ wordA_lt w, hb ▸ wordB_lt w⟩, hword, ?_⟩
    rw [hop, ha, hb, packWord_fields]
  · rintro ⟨hwf, hword, rfl⟩
    obtain ⟨ha, hb⟩ := i.wf_iff.mp hwf
    rw [decode_packWord (Nat.lt_of_le_of_lt (opcodeOf_le i) (by decide)) ha hb]
    exact decodeFields_eq_ok_iff.mpr ⟨hword, rfl, rfl, rfl⟩

theorem exists_encode_iff (i : Instr) : (∃ w, encode i = some w) ↔ i.wf = true ∧ i.hasWord = true := by
  simp only [encode_eq_some, fieldWord_eq_some_iff, exists_and_left, exists_eq', and_true]

theorem encode_eq_none_iff (i : Instr) : encode i = none ↔ i.hasWord = false ∨ i.wf = false := by
  rw [← not_iff_not, ← ne_eq, Option.ne_none_iff_exists', exists_encode_iff, not_or, Bool.not_eq_false, Bool.not_eq_false,
    and_comm]

/-- Settles O2: the word exists by the operation's fields, and the decoder is the inverse of the encoder. -/
theorem decodeOfEncode : Obligations.DecodeOfEncode := by
  unfold Obligations.DecodeOfEncode
  refine fun i => ⟨fun hword hwf => ?_, (encode_eq_none_iff i).mpr⟩
  obtain ⟨w, hw⟩ := (exists_encode_iff i).mpr ⟨hwf, hword⟩
  exact ⟨w, hw, decode_eq_ok_iff.mpr hw⟩

/-- Settles O3: the operation has that word, and only an engine operation whose operands fit has one. -/
theorem encodeOfDecode : Obligations.EncodeOfDecode := by
  unfold Obligations.EncodeOfDecode
  intro w i h
  have hw := decode_eq_ok_iff.mp h
  obtain ⟨hwf, hword⟩ := (exists_encode_iff i).mp ⟨w, hw⟩
  exact ⟨hword, hwf, hw⟩

/-! ### Reserved words -/

/-- The reserved combinations of the three fields (`30_encoding.md` R98). -/
theorem decodeFields_error_iff (op a b : Nat) :
    (∃ e, decodeFields op a b = .error e) ↔ op = 0 ∨ 8 ≤ op ∨ ((op = 1 ∨ op = 7) ∧ ¬(a = 0 ∧ b = 0)) := by
  unfold decodeFields
  split
  case h_1 | h_7 => split <;> simp [*]
  case h_8 => exact iff_of_true ⟨_, rfl⟩ (by grind)
  all_goals simp

theorem wordOp_eq_shift (w : OpWord) : (w >>> 28).toNat = wordOp w := by
  rw [BitVec.toNat_ushiftRight, Nat.shiftRight_eq_div_pow, wordOp]

theorem shift_eq_iff (w : OpWord) {n : Nat} (hn : n < 2 ^ 32) : w >>> 28 = BitVec.ofNat 32 n ↔ wordOp w = n := by
  rw [BitVec.toNat_eq, wordOp_eq_shift, BitVec.toNat_ofNat, Nat.mod_eq_of_lt hn]

/-- Bits 27 to 0 of a word are the two operand fields. -/
theorem operandBits_eq_zero_iff (w : OpWord) : w.extractLsb' 0 28 = 0 ↔ wordA w = 0 ∧ wordB w = 0 := by
  change w.extractLsb' 0 28 = 0#28 ↔ _
  rw [BitVec.toNat_eq, BitVec.extractLsb'_toNat, Nat.shiftRight_zero, BitVec.toNat_ofNat, wordA, wordB]
  omega

theorem decode_error_iff (w : OpWord) : (∃ e, decode w = .error e) ↔
    w >>> 28 = 0 ∨ 8 ≤ (w >>> 28).toNat ∨ ((w >>> 28 = 1 ∨ w >>> 28 = 7) ∧ w.extractLsb' 0 28 ≠ 0) := by
  have hshift0 := shift_eq_iff w (n := 0) (by decide)
  have hshift1 := shift_eq_iff w (n := 1) (by decide)
  have hshift7 := shift_eq_iff w (n := 7) (by decide)
  rw [decode, decodeFields_error_iff, wordOp_eq_shift, ne_eq, operandBits_eq_zero_iff, ← hshift0, ← hshift1, ← hshift7]
  rfl

end Sys2Proof

namespace Sys2Proof.Machine

open Sys2Proof.Laws.Opcode (opcodeOf)

/-! ### The driver's turn -/

theorem step_driver {s : State} {w : OpWord} {rest : List Turn} (h : s.agenda = .driver w :: rest) :
    step s = driverMove w { s with agenda := rest } := by simp only [step, takeTurn, h]

theorem driverMove_of_error {w : OpWord} {e : DecodeError} (h : decode w = .error e) (s : State) :
    driverMove w s = .refused (.reservedWord e) := by simp only [driverMove, h]

theorem driverMove_of_ok {w : OpWord} {i : Instr} (h : decode w = .ok i) (s : State) :
    driverMove w s = exec i { s with pc := s.pc.placedAt i } := by simp only [driverMove, h]

theorem checked_next_or_refused (cs : List (Bool × Refusal)) (t : State) :
    checked cs (.next t) = .next t ∨ ∃ r, checked cs (.next t) = .refused r := by
  induction cs with
  | nil => exact .inl rfl
  | cons p cs ih =>
    obtain ⟨b, r⟩ := p
    cases b
    · exact .inr ⟨r, rfl⟩
    · exact ih

theorem exec_next_or_refused (i : Instr) (s : State) : (∃ t, exec i s = .next t) ∨ ∃ r, exec i s = .refused r := by
  rw [exec_eq_checked]
  exact (checked_next_or_refused _ _).imp_left fun h => ⟨_, h⟩

/-- The preconditions of an operation that completes place its operands in the ranges of `10_state.md` R23 to R26. -/
theorem inRange_of_exec_next {i : Instr} {s t : State} (h : exec i s = .next t) : i.inRange s.cfg = true := by
  have pixelInRange (hpix : s.cfg.isPixel s.pc.y s.pc.x = true) : s.pc.y < s.cfg.h ∧ s.cfg.ScanColumn s.pc.x :=
    ((isPixel_iff ..).mp hpix).2
  rcases exec_next_cases h with ⟨rfl, -⟩ | ⟨rfl, -⟩ | ⟨rfl, -⟩ | ⟨rfl, -, hco, hci, -⟩ | ⟨rfl, -, hy, hci, -⟩ |
    ⟨rfl, -, hpix, -⟩ | ⟨rfl, -, hpix, -⟩ | ⟨rfl, -, hpix, -⟩ | ⟨rfl, -⟩
  · rfl
  · rfl
  · rfl
  · exact decide_eq_true ⟨hco, hci⟩
  · exact decide_eq_true ⟨hy, hci⟩
  · exact decide_eq_true (pixelInRange hpix)
  · exact decide_eq_true (pixelInRange hpix)
  · exact decide_eq_true (pixelInRange hpix)
  · rfl

theorem exec_refused_of_not_inRange {i : Instr} {s : State} (h : i.inRange s.cfg = false) :
    ∃ r, exec i s = .refused r := by
  rcases exec_next_or_refused i s with ⟨t, ht⟩ | hr
  · exact absurd (inRange_of_exec_next ht) (Bool.eq_false_iff.mp h)
  · exact hr

/-- Settles O4: the reserved fields, read off the word's bits; operands out of range meet their operation's own
precondition, whatever the position the driver places it at. -/
theorem reservedWordsRefused : Obligations.ReservedWordsRefused := by
  unfold Obligations.ReservedWordsRefused
  refine ⟨decode_error_iff, fun s w rest hagenda h => ?_⟩
  rw [step_driver hagenda]
  rcases h with ⟨e, he⟩ | ⟨i, hi, hrange⟩
  · exact ⟨_, driverMove_of_error he _⟩
  · rw [driverMove_of_ok hi]
    exact exec_refused_of_not_inRange hrange

/-! ### The word at the sequencer position -/

theorem Pos.opcodeOf_instr {p : Pos} {i : Instr} (h : p.instr = some i) : opcodeOf i = p.phase.code.toNat := by
  cases hp : p.phase <;> simp only [Pos.instr, hp, Option.some.injEq, reduceCtorEq] at h <;> subst h <;> rfl

/-- The operands are copies of cursors, so they fit where the cursors do (`30_encoding.md` R94). -/
theorem Pos.instr_wf {p : Pos} {i : Instr} (h : p.instr = some i) (hco0 : p.co0 < 2 ^ 14) (hci0 : p.ci0 < 2 ^ 14)
    (hy : p.y < 2 ^ 14) (hx : p.x < 2 ^ 14) : i.wf = true := by
  rw [Instr.wf_iff]
  cases hp : p.phase <;> simp only [Pos.instr, hp, Option.some.injEq, reduceCtorEq] at h <;> subst h
  case loadBias | finish => decide
  case loadWeights => exact ⟨hco0, hci0⟩
  case pushRow => exact ⟨hy, hci0⟩
  all_goals exact ⟨hy, hx⟩

theorem Pos.word_of_instr {p : Pos} {i : Instr} (h : p.instr = some i) : p.word = encode i := by
  rw [Pos.word, h, Option.bind_some]

/-- A word whose opcode has three bits holds it in bits 30 to 28, below a bit 31 that is 0. -/
theorem opcodeBits_of_wordOp {w : OpWord} {c : BitVec 3} (h : wordOp w = c.toNat) :
    w.extractLsb' 28 3 = c ∧ w.extractLsb' 31 1 = 0#1 := by
  have hc := c.isLt
  unfold wordOp at h
  constructor <;> apply BitVec.eq_of_toNat_eq <;>
    simp only [BitVec.extractLsb'_toNat, Nat.shiftRight_eq_div_pow, BitVec.toNat_ofNat] <;> omega

/-- Settles O5: `PHASE` names an engine operation whose operands fit, so it has a word, whose opcode is the code of `PHASE`. -/
theorem positionWordDecodes : Obligations.PositionWordDecodes := by
  unfold Obligations.PositionWordDecodes
  constructor
  · intro p hp hco0 hci0 hy hx
    obtain ⟨i, hi⟩ := Option.ne_none_iff_exists'.mp (mt p.instr_none_iff.mp hp)
    obtain ⟨w, hw⟩ := (exists_encode_iff i).mpr ⟨Pos.instr_wf hi hco0 hci0 hy hx, Pos.instr_hasWord hi⟩
    have hdec := decode_eq_ok_iff.mpr hw
    obtain ⟨-, hop, -⟩ := decodeFields_eq_ok_iff.mp hdec
    exact ⟨w, i, (Pos.word_of_instr hi).trans hw, hi, hdec, opcodeBits_of_wordOp (hop.symm.trans (Pos.opcodeOf_instr hi))⟩
  · intro p i hi hwf
    rw [Pos.word_of_instr hi, encode_eq_none_iff]
    exact .inr hwf

/-- Settles O1: the words are closed, so the decoder is evaluated on each. -/
theorem printedWordsDecode : Obligations.PrintedWordsDecode := by
  unfold Obligations.PrintedWordsDecode
  decide

end Sys2Proof.Machine
end

section
/-! The control sequencer's operations, and which agent's turn a step is (`40_control_sequencer.md` R120 to R129). -/

namespace Sys2Proof.Machine

/-! ### Whose turn it is -/

theorem step_of_no_turns {s : State} (h : s.agenda = []) : step s = engineMove s := by simp only [step, takeTurn, h]

theorem step_engine {s : State} {rest : List Turn} (h : s.agenda = .engine :: rest) :
    step s = engineMove { s with agenda := rest } := by simp only [step, takeTurn, h]

/-- A host that waits for `DONE` leaves the turn to the engine (log 4). -/
theorem step_host_waiting {s : State} {rest : List Turn} (h : s.agenda = .host .waitDone :: rest)
    (hw : s.waitEnabled = false) : step s = engineMove s := by
  have hwaits : hostWaits .waitDone s = true := by simp [hostWaits, hw]
  simp only [step, takeTurn, h, hwaits, if_true]

theorem engineMove_of_instr {s : State} {i : Instr} (h : s.pc.instr = some i) : engineMove s = exec i s := by
  simp only [engineMove, h]

theorem engineMove_accepts {s : State} (hp : s.pc.phase = .idle) (hs : s.start = true) :
    engineMove s = .next s.accepted := by
  simp only [engineMove, s.pc.instr_none_iff.mpr hp, hs, if_true]

theorem engineMove_waits {s : State} (hp : s.pc.phase = .idle) (hs : s.start = false) : engineMove s = .next s := by
  simp only [engineMove, s.pc.instr_none_iff.mpr hp, hs, Bool.false_eq_true, if_false]

/-! ### The engine does not see the agenda -/

theorem checksOf_withAgenda (i : Instr) (s : State) (a : List Turn) :
    checksOf i { s with agenda := a } = checksOf i s := by cases i <;> rfl

theorem effectOf_withAgenda (i : Instr) (s : State) (a : List Turn) :
    effectOf i { s with agenda := a } = { effectOf i s with agenda := a } := by cases i <;> rfl

theorem exec_withAgenda {i : Instr} {s t : State} (h : exec i s = .next t) (a : List Turn) :
    exec i { s with agenda := a } = .next { t with agenda := a } := by
  obtain ⟨hchecks, rfl⟩ := exec_next_iff.mp h
  exact exec_next_iff.mpr ⟨checksOf_withAgenda i s a ▸ hchecks, (effectOf_withAgenda i s a).symm⟩

theorem exec_refused_withAgenda {i : Instr} {s : State} {r : Refusal} (h : exec i s = .refused r) (a : List Turn) :
    exec i { s with agenda := a } = .refused r := by
  rw [exec_eq_checked] at h ⊢
  rw [checksOf_withAgenda]
  exact checked_next_refused _ h

theorem engineMove_withAgenda {s t : State} (h : engineMove s = .next t) (a : List Turn) :
    engineMove { s with agenda := a } = .next { t with agenda := a } := by
  rcases engineMove_cases h with ⟨i, hi, hexec⟩ | ⟨hp, hs, rfl⟩ | ⟨hp, hs, rfl⟩
  · exact (engineMove_of_instr (s := { s with agenda := a }) hi).trans (exec_withAgenda hexec a)
  · exact engineMove_accepts (s := { s with agenda := a }) hp hs
  · exact engineMove_waits (s := { t with agenda := a }) hp hs

/-- Only a micro-operation is ever refused to the engine. -/
theorem engineMove_refused {s : State} {r : Refusal} (h : engineMove s = .refused r) :
    ∃ i, s.pc.instr = some i ∧ exec i s = .refused r := by
  unfold engineMove at h
  split at h
  · split at h <;> cases h
  · exact ⟨_, by assumption, h⟩

theorem engineMove_refused_withAgenda {s : State} {r : Refusal} (h : engineMove s = .refused r) (a : List Turn) :
    engineMove { s with agenda := a } = .refused r := by
  obtain ⟨i, hi, hexec⟩ := engineMove_refused h
  exact (engineMove_of_instr (s := { s with agenda := a }) hi).trans (exec_refused_withAgenda hexec a)

/-! ### The step -/

/-- Settles O6: each turn is taken off the agenda, and the position or the decoder names the operation. -/
theorem stepRunsDecoded : Obligations.StepRunsDecoded := by
  unfold Obligations.StepRunsDecoded
  refine ⟨fun s i ha hi => ?_, fun s i rest ha hi => ?_, fun s i w rest ha hw => ?_⟩
  · exact step_of_empty_agenda ha hi
  · exact (step_engine ha).trans (engineMove_of_instr (s := { s with agenda := rest }) hi)
  · exact (step_driver ha).trans (driverMove_of_ok hw _)

/-- Settles O11: with no turn listed the engine moves, and in `IDLE` a pending `START` is accepted. -/
theorem engineAcceptsStart : Obligations.EngineAcceptsStart := by
  unfold Obligations.EngineAcceptsStart
  intro s ha hp hs
  refine ⟨_, (step_of_no_turns ha).trans (engineMove_accepts hp hs), rfl, rfl, rfl, rfl, rfl, rfl, ?_, rfl, rfl⟩
  simp [State.accTagAt]

/-- Settles O12: with no turn listed the engine moves, and in `IDLE` without `START` it waits. -/
theorem idleEngineWaits : Obligations.IdleEngineWaits := by
  unfold Obligations.IdleEngineWaits
  exact fun s ha hp hs => (step_of_no_turns ha).trans (engineMove_waits hp hs)

/-- Settles O14: both steps are the engine's move, which does not see the agenda. -/
theorem waitingHostLetsEngineMove : Obligations.WaitingHostLetsEngineMove := by
  unfold Obligations.WaitingHostLetsEngineMove
  intro s rest ha hd
  rw [step_of_no_turns (s := { s with agenda := [] }) rfl, step_host_waiting ha (by simp [State.waitEnabled, hd])]
  exact ⟨fun t ht => engineMove_withAgenda ht s.agenda, fun r hr => engineMove_refused_withAgenda hr s.agenda⟩

/-! ### `START` and `WAIT_DONE` -/

/-- Settles O9: the premises are the preconditions of `START`. -/
theorem startSetsSignal : Obligations.StartSetsSignal := by
  unfold Obligations.StartSetsSignal
  intro s href hfit hp
  exact ⟨_, execStart_next_iff.mpr ⟨⟨s.refsWritten_iff.mpr href, hfit, hp⟩, rfl⟩, rfl, rfl⟩

theorem execStart_b6 {s : State} (h : ¬ (s.refsWritten = true ∧ s.buffersFit = true)) :
    execStart s = .refused .b6Buffer := by
  have hf : (s.refsWritten && s.buffersFit) = false := by rw [Bool.eq_false_iff, ne_eq, Bool.and_eq_true]; exact h
  rw [execStart, startChecks, hf, checked_first_fails]

theorem execStart_b9 {s : State} (href : s.refsWritten = true) (hfit : s.buffersFit = true) (hp : s.pc.phase ≠ .idle) :
    execStart s = .refused .b9StartBusy := by
  have hbusy : s.busy = true := decide_eq_true hp
  rw [execStart, startChecks, href, hfit, hbusy, Bool.and_true, checked_first_holds, Bool.not_true, checked_first_fails]

/-- Settles O10: an unwritten reference or a short buffer fails the first precondition of `START`, a busy engine the
second. -/
theorem startBreaches : Obligations.StartBreaches := by
  unfold Obligations.StartBreaches
  refine fun s => ⟨fun h => execStart_b6 ?_, fun href hfit hp => execStart_b9 (s.refsWritten_iff.mpr href) hfit hp⟩
  rw [s.refsWritten_iff, s.buffersFit_iff]
  rintro ⟨href, hin, hwgt, hbias, hout⟩
  rcases h with ⟨sp, hsp⟩ | h | h | h | h
  · exact absurd (href sp) (by simp [hsp])
  all_goals omega

theorem State.waitEnabled_iff (s : State) : s.waitEnabled = true ↔ s.done = true ∧ s.start = false := by
  simp [State.waitEnabled]

theorem execWaitDone_enabled {s : State} (h : s.waitEnabled = true) : execWaitDone s = .next { s with duty := .free } := by
  rw [execWaitDone_next, if_pos h]

/-- Settles O13: the two clauses are the two sides of `WAIT_DONE`'s condition. -/
theorem waitDoneObserves : Obligations.WaitDoneObserves := by
  unfold Obligations.WaitDoneObserves
  refine fun s => ⟨fun hd hs => ?_, fun h => ?_⟩
  · exact ⟨_, execWaitDone_enabled (s.waitEnabled_iff.mpr ⟨hd, hs⟩), rfl, hd, rfl⟩
  · refine (execWaitDone_next s).trans (congrArg _ (if_neg fun hw => ?_))
    obtain ⟨hd, hs⟩ := s.waitEnabled_iff.mp hw
    rw [hd, hs] at h
    simp at h

/-! ### `LOAD_BIAS` and `FINISH` -/

/-- Settles O20: each element is the four-byte word at its offset. -/
theorem loadBiasLoadsVector : Obligations.LoadBiasLoadsVector := by
  unfold Obligations.LoadBiasLoadsVector
  intro s hp hsize
  exact ⟨_, execLoadBias_next_iff.mpr ⟨⟨hp, hsize⟩, rfl⟩,
    fun i hi => ⟨_, s.biasLoaded_biasAt hi, s.biasMem.read32_toNat (biasIdx i)⟩, rfl, rfl, rfl⟩

/-- Settles O21: the premise is the precondition of `FINISH`. -/
theorem finishReportsDone : Obligations.FinishReportsDone := by
  unfold Obligations.FinishReportsDone
  exact fun s hp => ⟨_, execFinish_next_iff.mpr ⟨hp, rfl⟩, rfl, rfl, rfl⟩

theorem execLoadBias_b6 {s : State} (h : s.biasMem.size < s.cfg.biasBytes) : execLoadBias s = .refused .b6Buffer := by
  rw [execLoadBias, loadBiasChecks, decide_eq_false (Nat.not_le.mpr h), checked_first_fails]

theorem execLoadBias_outOfSchedule {s : State} (hsize : s.cfg.biasBytes ≤ s.biasMem.size)
    (hp : s.pc.phase ≠ .loadBias) :
    execLoadBias s = .refused (.outOfSchedule "LOAD_BIAS") := by
  rw [execLoadBias, loadBiasChecks, decide_eq_true hsize, checked_first_holds, decide_eq_false hp, checked_first_fails]

theorem execFinish_outOfSchedule {s : State} (hp : s.pc.phase ≠ .finish) :
    execFinish s = .refused (.outOfSchedule "FINISH") := by
  rw [execFinish, finishChecks, decide_eq_false hp, checked_first_fails]

/-- Settles O27: the first precondition that fails names the refusal. -/
theorem outOfScheduleRefused : Obligations.OutOfScheduleRefused := by
  unfold Obligations.OutOfScheduleRefused
  exact fun s => ⟨execLoadBias_b6, execLoadBias_outOfSchedule, execFinish_outOfSchedule⟩

/-! ### The position -/

/-- An engine operation that completes is the one `PHASE` names, and moves the sequencer to the next position (R123). -/
theorem exec_follows_schedule {i : Instr} {s t : State} (hi : i.hasWord = true) (h : exec i s = .next t) :
    t.pc = s.pc.next s.cfg ∧ s.pc.instr = some i := by
  rcases exec_next_cases h with ⟨rfl, -⟩ | ⟨rfl, -⟩ | ⟨rfl, hp, rfl⟩ | ⟨rfl, hp, -, -, rfl⟩ |
    ⟨rfl, hp, -, -, rfl⟩ | ⟨rfl, hp, -, rfl⟩ | ⟨rfl, hp, -, rfl⟩ | ⟨rfl, hp, -, -, -, rfl⟩ | ⟨rfl, hp, rfl⟩
  · exact absurd hi (by decide)
  · exact absurd hi (by decide)
  · exact ⟨by simp only [Pos.next, hp, State.biasLoaded_pc], by simp only [Pos.instr, hp]⟩
  · exact ⟨by simp only [Pos.next, hp, State.weightsLoaded_pc], by simp only [Pos.instr, hp]⟩
  · exact ⟨by simp only [Pos.next, hp, State.rowPushed_pc], by simp only [Pos.instr, hp]⟩
  · exact ⟨by simp only [Pos.next, hp, State.windowBuilt_pc], by simp only [Pos.instr, hp]⟩
  · exact ⟨State.accumulated_pc_next hp _ _, by simp only [Pos.instr, hp]⟩
  · exact ⟨State.requantized_pc_next hp _ _, by simp only [Pos.instr, hp]⟩
  · exact ⟨by simp only [Pos.next, hp, State.finished_pc], by simp only [Pos.instr, hp]⟩

/-- Settles O34: each operation's new position is its line of R123. -/
theorem positionFollowsSchedule : Obligations.PositionFollowsSchedule := by
  unfold Obligations.PositionFollowsSchedule
  exact fun i s t => exec_follows_schedule

/-- No engine operation touches the signal or the host's duty. -/
theorem effectOf_start_duty {i : Instr} (hi : i.hasWord = true) (s : State) :
    (effectOf i s).start = s.start ∧ (effectOf i s).duty = s.duty := by
  cases i with
  | start => cases hi
  | waitDone => cases hi
  | _ => exact ⟨rfl, rfl⟩

/-- Where the engine goes: a function of parameter, position and signal. -/
def engineTarget (c : Config) (p : Pos) (start : Bool) : Pos × Bool :=
  if p.phase = .idle then (if start then (runStart c, false) else (p, start)) else (p.next c, start)

theorem engineMove_target {s t : State} (h : engineMove s = .next t) :
    (t.pc, t.start) = engineTarget s.cfg s.pc s.start := by
  rcases engineMove_cases h with ⟨i, hi, hexec⟩ | ⟨hp, hs, rfl⟩ | ⟨hp, hs, rfl⟩
  · have hword := Pos.instr_hasWord hi
    have hp : s.pc.phase ≠ .idle := fun hp => by simp [s.pc.instr_none_iff.mpr hp] at hi
    obtain ⟨hpc, -⟩ := exec_follows_schedule hword hexec
    obtain ⟨-, rfl⟩ := exec_next_iff.mp hexec
    obtain ⟨hstart, -⟩ := effectOf_start_duty hword s
    rw [engineTarget, if_neg hp, hpc, hstart]
  · simp [engineTarget, hp, hs, runStart]
  · simp [engineTarget, hp, hs]

/-- Settles O35: position and signal after a step are the same function of what the two states share. -/
theorem noBranchOnData : Obligations.NoBranchOnData := by
  unfold Obligations.NoBranchOnData
  intro s s' t t' hcfg hpc hstart ha ha' h h'
  rw [step_of_no_turns ha] at h
  rw [step_of_no_turns ha'] at h'
  have htarget := engineMove_target h
  rw [hcfg, hpc, hstart, ← engineMove_target h', Prod.mk.injEq] at htarget
  exact htarget

end Sys2Proof.Machine
end

section
/-! The stream the sequencer generates (`40_control_sequencer.md` R123, R124): the next-state function walks the loop nest of
`30_encoding.md` R102, pseudo-operation by pseudo-operation. -/

namespace Sys2Proof.Machine

/-! ### Loops and their lengths -/

theorem concatTo_succ {α : Type} (n : Nat) (f : Nat → List α) : concatTo (n + 1) f = concatTo n f ++ f n := by
  simp [concatTo, tab, List.range_succ]

theorem concatTo_length {α : Type} (n : Nat) (f : Nat → List α) :
    (concatTo n f).length = ∑ i ∈ Finset.range n, (f i).length := by
  induction n with
  | zero => rfl
  | succ n ih => rw [concatTo_succ, List.length_append, ih, Finset.sum_range_succ]

/-! ### Tiles -/

/-- The tiles of a dimension are one last tile and `n` before it, and the last one starts at `n * tile`. -/
theorem exists_last_tile {tile bound : Nat} (ht : 1 ≤ tile) (hb : 1 ≤ bound) (hd : tile ∣ bound) :
    ∃ n, bound / tile = n + 1 ∧ bound - tile = n * tile := by
  obtain ⟨m, rfl⟩ := hd
  obtain ⟨n, rfl⟩ : ∃ n, m = n + 1 := Nat.exists_eq_succ_of_ne_zero fun hm => by simp [hm] at hb
  exact ⟨n, Nat.mul_div_cancel_left _ ht, by rw [Nat.mul_succ, Nat.add_sub_cancel, Nat.mul_comm]⟩

/-! ### Walking the schedule -/

/-- From `p` the schedule issues exactly `ops` and is then at `q`. -/
def Issues (c : Config) (p : Pos) (ops : List Instr) (q : Pos) : Prop := issueFrom c ops.length p = (ops, q)

theorem issues_nil (c : Config) (p : Pos) : Issues c p [] p := rfl

theorem issues_cons_iff {c : Config} {p q : Pos} {i : Instr} {ops : List Instr} :
    Issues c p (i :: ops) q ↔ p.instr = some i ∧ Issues c (p.next c) ops q := by
  rw [Issues, List.length_cons, issueFrom]
  cases p.instr with
  | none => simp
  | some j => simp [Issues, Prod.ext_iff, and_assoc]

theorem Issues.one {c : Config} {p q : Pos} {i : Instr} (hi : p.instr = some i) (hq : p.next c = q) : Issues c p [i] q :=
  issues_cons_iff.mpr ⟨hi, hq ▸ issues_nil c _⟩

theorem Issues.append {c : Config} {p q r : Pos} {ops ops' : List Instr} (h : Issues c p ops q) (h' : Issues c q ops' r) :
    Issues c p (ops ++ ops') r := by
  induction ops generalizing p with
  | nil =>
    obtain rfl : p = q := congrArg Prod.snd h
    exact h'
  | cons i ops ih =>
    obtain ⟨hi, hops⟩ := issues_cons_iff.mp h
    exact issues_cons_iff.mpr ⟨hi, ih hops⟩

/-- A loop: each body ends where the next begins. -/
theorem Issues.loop {c : Config} {n : Nat} {pos : Nat → Pos} {body : Nat → List Instr}
    (h : ∀ i, i < n → Issues c (pos i) (body i) (pos (i + 1))) : Issues c (pos 0) (concatTo n body) (pos n) := by
  induction n with
  | zero => exact issues_nil c _
  | succ n ih =>
    rw [concatTo_succ]
    exact (ih fun i hi => h i (Nat.lt_succ_of_lt hi)).append (h n (Nat.lt_succ_self n))

/-- A loop whose last body leaves it. -/
theorem Issues.loop_exit {c : Config} {n : Nat} {body : Nat → List Instr} {p q : Pos} (pos : Nat → Pos)
    (hstart : pos 0 = p) (h : ∀ i, i < n → Issues c (pos i) (body i) (pos (i + 1))) (hlast : Issues c (pos n) (body n) q) :
    Issues c p (concatTo (n + 1) body) q := by
  rw [concatTo_succ, ← hstart]
  exact (Issues.loop h).append hlast

/-! ### The pseudo-operations `PIXEL`, `ROW`, `SCAN` and `RUN` -/

theorem issues_pixel (c : Config) (co0 ci0 y x : Nat) :
    Issues c ⟨.buildWindow, co0, ci0, y, x⟩ (pixelOps c ci0 y x) (Pos.advance c ⟨.buildWindow, co0, ci0, y, x⟩) := by
  rw [pixelOps, List.cons_append, issues_cons_iff]
  refine ⟨rfl, issues_cons_iff.mpr ⟨rfl, ?_⟩⟩
  by_cases hlast : ci0 = c.cin - c.ciTile
  · rw [if_pos hlast]
    exact .one (by simp [Pos.next, Pos.instr, hlast]) (by simp [Pos.next, hlast]; rfl)
  · have hnext : Pos.next c ⟨.accumulate, co0, ci0, y, x⟩ = Pos.advance c ⟨.buildWindow, co0, ci0, y, x⟩ :=
      if_neg hlast
    rw [if_neg hlast]
    exact hnext ▸ issues_nil c _

/-- `ROW y` of a row that completes no window only pushes it. -/
theorem issues_row_above (c : Config) (co0 ci0 : Nat) {y : Nat} (hy : ¬ c.k - 1 ≤ y) :
    Issues c ⟨.pushRow, co0, ci0, y, c.k - 1⟩ (rowOps c ci0 y) ⟨.pushRow, co0, ci0, y + 1, c.k - 1⟩ := by
  rw [rowOps, if_neg hy]
  exact .one rfl (by simp only [Pos.next, if_neg hy])

/-- `ROW y` of a row of pixels ends at the advance from its last column. -/
theorem issues_row_pixels (c : Config) (co0 ci0 : Nat) {y : Nat} (hy : c.k - 1 ≤ y) :
    Issues c ⟨.pushRow, co0, ci0, y, c.k - 1⟩ (rowOps c ci0 y)
      (Pos.advance c ⟨.buildWindow, co0, ci0, y, c.w - 1⟩) := by
  have hk := c.k_pos
  have hw := c.k_le_w
  rw [rowOps, if_pos hy, issues_cons_iff]
  refine ⟨rfl, ?_⟩
  simp only [Pos.next, if_pos hy]
  refine Issues.loop_exit (n := c.w - c.k) (fun n => ⟨.buildWindow, co0, ci0, y, c.k - 1 + n⟩) rfl (fun n hn => ?_) ?_
  · have hnext : Pos.advance c ⟨.buildWindow, co0, ci0, y, c.k - 1 + n⟩ =
        ⟨.buildWindow, co0, ci0, y, c.k - 1 + (n + 1)⟩ :=
      if_pos (show c.k - 1 + n < c.w - 1 by omega)
    exact hnext ▸ issues_pixel c co0 ci0 y _
  · rw [show c.w - 1 = c.k - 1 + (c.w - c.k) by omega]
    exact issues_pixel c co0 ci0 y _

/-- `SCAN` ends at the advance from its last pixel. -/
theorem issues_scan (c : Config) (co0 ci0 : Nat) :
    Issues c ⟨.loadWeights, co0, ci0, 0, c.k - 1⟩ (scanOps c co0 ci0)
      (Pos.advance c ⟨.buildWindow, co0, ci0, c.h - 1, c.w - 1⟩) := by
  have hk := c.k_pos
  have hh := c.k_le_h
  rw [scanOps, issues_cons_iff]
  refine ⟨rfl, ?_⟩
  obtain ⟨n, hn⟩ : ∃ n, c.h = n + 1 := ⟨c.h - 1, by omega⟩
  rw [hn]
  refine Issues.loop_exit (fun y => ⟨.pushRow, co0, ci0, y, c.k - 1⟩) rfl (fun y hy => ?_)
    (issues_row_pixels c co0 ci0 (by omega))
  by_cases hrow : c.k - 1 ≤ y
  · have hnext : Pos.advance c ⟨.buildWindow, co0, ci0, y, c.w - 1⟩ = ⟨.pushRow, co0, ci0, y + 1, c.k - 1⟩ := by
      simp [Pos.advance, show y < c.h - 1 by omega]
    exact hnext ▸ issues_row_pixels c co0 ci0 hrow
  · exact issues_row_above c co0 ci0 hrow

/-- The scans of one output tile end at the advance from the last pixel of the last input tile. -/
theorem issues_outputTile (c : Config) (co0 : Nat) :
    Issues c ⟨.loadWeights, co0, 0, 0, c.k - 1⟩ (concatTo (c.cin / c.ciTile) fun n => scanOps c co0 (n * c.ciTile))
      (Pos.advance c ⟨.buildWindow, co0, c.cin - c.ciTile, c.h - 1, c.w - 1⟩) := by
  obtain ⟨n, hcount, hlast⟩ := exists_last_tile c.ciTile_pos c.cin_pos c.ciTile_dvd
  rw [hcount, hlast]
  refine Issues.loop_exit (fun n => ⟨.loadWeights, co0, n * c.ciTile, 0, c.k - 1⟩) (by simp) (fun i hi => ?_)
    (issues_scan c co0 _)
  have hnext : Pos.advance c ⟨.buildWindow, co0, i * c.ciTile, c.h - 1, c.w - 1⟩ =
      ⟨.loadWeights, co0, (i + 1) * c.ciTile, 0, c.k - 1⟩ := by
    simp [Pos.advance, hlast, Nat.mul_lt_mul_of_pos_right hi c.ciTile_pos, Nat.succ_mul]
  exact hnext ▸ issues_scan c co0 _

/-- The position of `FINISH` (`40_control_sequencer.md` R123): the last pixel of the last tile pair. -/
def runEnd (c : Config) : Pos := ⟨.finish, c.cout - c.coTile, c.cin - c.ciTile, c.h - 1, c.w - 1⟩

/-- The micro-operations of `RUN` before `FINISH` (`40_control_sequencer.md` R124). -/
def runBody (c : Config) : List Instr :=
  .loadBias ::
    concatTo (c.cout / c.coTile) fun m => concatTo (c.cin / c.ciTile) fun n => scanOps c (m * c.coTile) (n * c.ciTile)

theorem runOps_eq (c : Config) : runOps c = runBody c ++ [.finish] := rfl

theorem issues_runBody (c : Config) : Issues c (runStart c) (runBody c) (runEnd c) := by
  obtain ⟨m, hcount, hlast⟩ := exists_last_tile c.coTile_pos c.cout_pos c.coTile_dvd
  rw [runBody, issues_cons_iff, hcount]
  refine ⟨rfl, ?_⟩
  have hexit : Pos.advance c ⟨.buildWindow, m * c.coTile, c.cin - c.ciTile, c.h - 1, c.w - 1⟩ = runEnd c := by
    simp [Pos.advance, runEnd, hlast]
  refine Issues.loop_exit (fun m => ⟨.loadWeights, m * c.coTile, 0, 0, c.k - 1⟩) (by simp [Pos.next, runStart])
    (fun i hi => ?_) (hexit ▸ issues_outputTile c _)
  have hnext : Pos.advance c ⟨.buildWindow, i * c.coTile, c.cin - c.ciTile, c.h - 1, c.w - 1⟩ =
      ⟨.loadWeights, (i + 1) * c.coTile, 0, 0, c.k - 1⟩ := by
    simp [Pos.advance, hlast, Nat.mul_lt_mul_of_pos_right hi c.coTile_pos, Nat.succ_mul]
  exact hnext ▸ issues_outputTile c _

theorem issues_run (c : Config) : Issues c (runStart c) (runOps c) { runEnd c with phase := .idle } :=
  runOps_eq c ▸ (issues_runBody c).append (.one rfl rfl)

/-! ### The number of micro-operations (`40_control_sequencer.md` R128) -/

theorem pixelOps_length (c : Config) (ci0 y x : Nat) :
    (pixelOps c ci0 y x).length = 2 + if ci0 = c.cin - c.ciTile then 1 else 0 := by
  unfold pixelOps
  split <;> rfl

theorem rowOps_length (c : Config) (ci0 y : Nat) :
    (rowOps c ci0 y).length =
      1 + if c.k - 1 ≤ y then c.ow * (2 + if ci0 = c.cin - c.ciTile then 1 else 0) else 0 := by
  rw [rowOps, List.length_cons, Nat.add_comm]
  split
  · simp [concatTo_length, pixelOps_length]
  · rfl

/-- The rows of pixels are the input rows from `K-1` on. -/
theorem sum_pixelRows (c : Config) (a : Nat) : (∑ y ∈ Finset.range c.h, if c.k - 1 ≤ y then a else 0) = c.oh * a := by
  have hh : c.h = (c.k - 1) + c.oh := by
    have := c.k_le_h
    have := c.k_pos
    rw [c.oh_eq]
    omega
  have habove : ∀ y ∈ Finset.range (c.k - 1), (if c.k - 1 ≤ y then a else 0) = 0 := fun y hy =>
    if_neg (Nat.not_le.mpr (Finset.mem_range.mp hy))
  rw [hh, Finset.sum_range_add, Finset.sum_eq_zero habove]
  simp

theorem scanOps_length (c : Config) (co0 ci0 : Nat) :
    (scanOps c co0 ci0).length =
      1 + c.h + 2 * (c.oh * c.ow) + if ci0 = c.cin - c.ciTile then c.oh * c.ow else 0 := by
  rw [scanOps, List.length_cons, concatTo_length]
  simp only [rowOps_length, Finset.sum_add_distrib, sum_pixelRows]
  split <;> simp <;> ring

theorem outputTile_length (c : Config) (co0 : Nat) :
    (concatTo (c.cin / c.ciTile) fun n => scanOps c co0 (n * c.ciTile)).length =
      c.cin / c.ciTile * (1 + c.h + 2 * (c.oh * c.ow)) + c.oh * c.ow := by
  obtain ⟨n, hcount, hlast⟩ := exists_last_tile c.ciTile_pos c.cin_pos c.ciTile_dvd
  have hearlier : ∀ i ∈ Finset.range n, (if i * c.ciTile = n * c.ciTile then c.oh * c.ow else 0) = 0 := fun i hi =>
    if_neg (Nat.ne_of_lt (Nat.mul_lt_mul_of_pos_right (Finset.mem_range.mp hi) c.ciTile_pos))
  simp only [concatTo_length, scanOps_length, Finset.sum_add_distrib, hlast, hcount, Finset.sum_range_succ _ n,
    Finset.sum_eq_zero hearlier, Finset.sum_const, Finset.card_range, smul_eq_mul, if_true]
  ring

theorem runOps_length (c : Config) : (runOps c).length = runLength c := by
  rw [runOps_eq, runBody, List.length_append, List.length_cons, concatTo_length]
  simp only [outputTile_length, Finset.sum_const, Finset.card_range, smul_eq_mul, runLength, tilePairs,
    List.length_singleton]
  ring

/-- Settles O48: the next-state function walks the loop nest body by body, and the bodies' lengths add up to the count. -/
theorem scheduleIssuesRun : Obligations.ScheduleIssuesRun := by
  unfold Obligations.ScheduleIssuesRun
  intro c
  have hrun := issues_run c
  rw [Issues, runOps_length] at hrun
  exact ⟨congrArg Prod.fst hrun, runOps_length c, by rw [hrun]⟩

end Sys2Proof.Machine
end

section
/-! The run as a whole: from an accepted `START` the engine's turns follow the stream `RUN`, keep the run's invariant up to
`FINISH`, and leave `OUT` complete (`40_control_sequencer.md` R124, R125, R128). -/

namespace Sys2Proof.Machine

/-! ### Several steps -/

theorem coreRun_step {M : Host.Core} {s t : M.State} (h : M.step s = .next t) (n : Nat) : M.run (n + 1) s = M.run n t := by
  rw [Host.Core.run, h]

theorem coreRun_add {M : Host.Core} {m : Nat} {s t : M.State} (h : M.run m s = .next t) (n : Nat) :
    M.run (m + n) s = M.run n t := by
  induction m generalizing s with
  | zero =>
    obtain rfl : s = t := Host.Outcome.next.inj h
    rw [Nat.zero_add]
  | succ m ih =>
    cases hs : M.step s with
    | next u =>
      rw [coreRun_step hs] at h
      rw [Nat.succ_add, coreRun_step hs, ih h]
    | fault f =>
      rw [Host.Core.run, hs] at h
      cases h
    | refused r =>
      rw [Host.Core.run, hs] at h
      cases h

theorem run_step {s t : State} (h : step s = .next t) (n : Nat) : core.run (n + 1) s = core.run n t :=
  coreRun_step (M := core) h n

theorem run_add {m : Nat} {s t : State} (h : core.run m s = .next t) (n : Nat) : core.run (m + n) s = core.run n t :=
  coreRun_add (M := core) h n

/-! ### The acceptance of `START` -/

/-- Nothing is accumulated or written at the first position, so the invariant asks for sizes and form only. -/
theorem State.accepted_runInv {s : State} (hfit : s.buffersFit = true) (hwf : s.outMem.wf) : s.accepted.RunInv := by
  obtain ⟨hco, hci, hy, hx⟩ := runStart_inScan s.cfg
  refine ⟨hwf, hfit, ⟨hco, hci, hy, hx, rfl⟩, trivial, ?banks, ?output⟩
  case banks =>
    intro oy _ ox _ hpos
    have hnone : s.accepted.pc.channelsDone s.cfg oy ox = 0 := Pos.channelsDone_of_accumulated (n := 0) rfl oy ox
    rw [State.accepted_cfg, hnone] at hpos
    exact absurd hpos (Nat.lt_irrefl 0)
  case output =>
    rintro oy _ ox _ co _ (hco | ⟨-, -, hpixel⟩)
    · exact absurd hco (Nat.not_lt_zero co)
    · exact absurd hpixel (Nat.not_lt_zero _)

/-- Settles O50: the acceptance goes to the first position, where the invariant asks for sizes and form only. -/
theorem acceptanceOpensRun : Obligations.AcceptanceOpensRun := by
  unfold Obligations.AcceptanceOpensRun
  intro s ha hp hs hfit hwf
  exact ⟨_, (step_of_no_turns ha).trans (engineMove_accepts hp hs), State.accepted_runInv hfit hwf, rfl⟩

/-! ### The engine's turns -/

/-- The next step is the engine's: no turn is listed, or the host waits for `DONE` (log 4). -/
def State.EngineTurn (s : State) : Prop :=
  s.agenda = [] ∨ ∃ rest, s.agenda = .host .waitDone :: rest ∧ s.waitEnabled = false

theorem State.EngineTurn.step_eq {s : State} (h : s.EngineTurn) : step s = engineMove s := by
  rcases h with ha | ⟨rest, ha, hw⟩
  · exact step_of_no_turns ha
  · exact step_host_waiting ha hw

/-- What the micro-operations before `FINISH` leave alone. -/
structure RunFrame (s t : State) : Prop extends SameInputs s t where
  agenda : t.agenda = s.agenda
  duty : t.duty = s.duty
  start : t.start = s.start
  done : t.done = s.done

theorem RunFrame.refl (s : State) : RunFrame s s := ⟨⟨rfl, rfl, rfl, rfl⟩, rfl, rfl, rfl, rfl⟩

theorem SameInputs.trans {s t u : State} (h : SameInputs s t) (h' : SameInputs t u) : SameInputs s u :=
  ⟨h'.cfg.trans h.cfg, h'.inMem.trans h.inMem, h'.wgtMem.trans h.wgtMem, h'.biasMem.trans h.biasMem⟩

theorem RunFrame.trans {s t u : State} (h : RunFrame s t) (h' : RunFrame t u) : RunFrame s u :=
  ⟨h.toSameInputs.trans h'.toSameInputs, h'.agenda.trans h.agenda, h'.duty.trans h.duty, h'.start.trans h.start,
    h'.done.trans h.done⟩

theorem RunFrame.engineTurn {s t : State} (h : RunFrame s t) (hs : s.EngineTurn) : t.EngineTurn := by
  rw [State.EngineTurn, h.agenda, State.waitEnabled, h.start, h.done]
  exact hs

theorem effectOf_done {i : Instr} (hf : i ≠ .finish) (s : State) : (effectOf i s).done = s.done := by
  cases i with
  | finish => exact absurd rfl hf
  | _ => rfl

theorem effectOf_runFrame {i : Instr} (hi : i.hasWord = true) (hf : i ≠ .finish) (s : State) :
    RunFrame s (effectOf i s) :=
  have ⟨hstart, hduty⟩ := effectOf_start_duty hi s
  ⟨effectOf_sameInputs i s, effectOf_agenda i s, hduty, hstart, effectOf_done hf s⟩

/-! ### From `START` to `FINISH` -/

theorem Pos.instr_finish_iff (p : Pos) : p.instr = some .finish ↔ p.phase = .finish := by
  cases hp : p.phase <;> simp [Pos.instr, hp]

/-- From `IDLE` the schedule goes nowhere. -/
theorem Issues.eq_of_idle {c : Config} {p q : Pos} {ops : List Instr} (h : Issues c p ops q) (hp : p.phase = .idle) :
    q = p := by
  cases ops with
  | nil => exact (congrArg Prod.snd h).symm
  | cons i ops =>
    obtain ⟨hi, -⟩ := issues_cons_iff.mp h
    rw [p.instr_none_iff.mpr hp] at hi
    cases hi

/-- The engine's turns follow the schedule as far as `FINISH`, each operation keeping the run's invariant. -/
theorem State.RunInv.run_scheduled {s : State} {ops : List Instr} {q : Pos} (h : s.RunInv) (hturn : s.EngineTurn)
    (hops : Issues s.cfg s.pc ops q) (hq : q.phase ≠ .idle) :
    ∃ t, core.run ops.length s = .next t ∧ t.RunInv ∧ RunFrame s t ∧ t.pc = q := by
  induction ops generalizing s with
  | nil => exact ⟨s, rfl, h, .refl s, congrArg Prod.snd hops⟩
  | cons i ops ih =>
    obtain ⟨hi, hops⟩ := issues_cons_iff.mp hops
    have hf : s.pc.phase ≠ .finish := fun hf => by
      have hidle : (s.pc.next s.cfg).phase = .idle := by simp only [Pos.next, hf]
      exact hq (hops.eq_of_idle hidle ▸ hidle)
    obtain ⟨j, u, hj, hexec, hu⟩ := h.exec_scheduled hf
    obtain rfl : i = j := Option.some.inj (hi.symm.trans hj)
    have hword := Pos.instr_hasWord hi
    obtain ⟨hpc, -⟩ := exec_follows_schedule hword hexec
    have hframe : RunFrame s u := by
      rw [(exec_next_iff.mp hexec).2]
      exact effectOf_runFrame hword (fun hfin => hf (s.pc.instr_finish_iff.mp (hfin ▸ hi))) s
    obtain ⟨t, hrun, ht, hframe', hq'⟩ := ih hu (hframe.engineTurn hturn) (by rw [hpc, hframe.cfg]; exact hops)
    have hstep : step s = .next u := hturn.step_eq.trans ((engineMove_of_instr hi).trans hexec)
    exact ⟨t, (run_step hstep _).trans hrun, ht, hframe.trans hframe', hq'⟩

/-- At `FINISH` every element of `OUT` is written. -/
theorem State.RunInv.output_complete {s : State} (h : s.RunInv) (hp : s.pc.phase = .finish) {oy ox co : Nat}
    (hoy : oy < s.cfg.oh) (hox : ox < s.cfg.ow) (hco : co < s.cfg.cout) : s.outputAt oy ox co = s.bigStepOut co oy ox := by
  obtain ⟨-, -, ⟨-, -, -, -, hlast⟩, -, -, hout⟩ := h
  rw [hp] at hlast
  obtain ⟨hco0, hci0⟩ := hlast
  have hle := s.cfg.coTile_le
  have hall : s.pc.pixelsWritten s.cfg = s.cfg.oh * s.cfg.ow := by
    rw [Pos.pixelsWritten_of_phase (by rw [hp]; decide)]
    simp only [Pos.pixelsAccumulated, hp]
  exact hout oy hoy ox hox co hco (.inr ⟨by omega, hci0, hall ▸ pixel_lt hoy hox⟩)

/-- What an accepted run leaves behind: `OUT` as the big step has it (R125), `DONE` set, the engine idle, and everything that
is the host's as it was. -/
structure RunCompleted (s t : State) : Prop extends SameInputs s t where
  agenda : t.agenda = s.agenda
  duty : t.duty = s.duty
  start : t.start = false
  done : t.done = true
  idle : t.pc.phase = .idle
  output : ∀ oy, oy < s.cfg.oh → ∀ ox, ox < s.cfg.ow → ∀ co, co < s.cfg.cout →
    t.outputAt oy ox co = s.bigStepOut co oy ox

/-- The run from the acceptance of `START` to `FINISH`, in the number of steps of R128 and one for the acceptance. -/
theorem run_completes {s : State} (hturn : s.EngineTurn) (hp : s.pc.phase = .idle) (hs : s.start = true)
    (hfit : s.buffersFit = true) (hwf : s.outMem.wf) :
    ∃ t, core.run (runLength s.cfg + 1) s = .next t ∧ RunCompleted s t := by
  have haccept : step s = .next s.accepted := hturn.step_eq.trans (engineMove_accepts hp hs)
  have hturn' : s.accepted.EngineTurn := hturn.imp_right fun ⟨rest, ha, _⟩ => ⟨rest, ha, rfl⟩
  obtain ⟨u, hrun, hinv, hframe, hpc⟩ :=
    (State.accepted_runInv hfit hwf).run_scheduled hturn' (issues_runBody s.cfg) nofun
  have hend : u.pc.phase = .finish := hpc ▸ rfl
  have hfinish : step u = .next u.finished := (hframe.engineTurn hturn').step_eq.trans
    ((engineMove_of_instr (u.pc.instr_finish_iff.mpr hend)).trans (execFinish_next_iff.mpr ⟨hend, rfl⟩))
  have hin : SameInputs s u := ⟨hframe.cfg, hframe.inMem, hframe.wgtMem, hframe.biasMem⟩
  refine ⟨u.finished, ?_, hin.trans (effectOf_sameInputs .finish u), hframe.agenda, hframe.duty, hframe.start, rfl, rfl,
    fun oy hoy ox hox co hco => ?_⟩
  · rw [run_step haccept, ← runOps_length, runOps_eq, List.length_append, run_add hrun]
    exact run_step hfinish 0
  · rw [← hin.cfg] at hoy hox hco
    exact (hinv.output_complete hend hoy hox hco).trans (hin.bigStepOut co oy ox)

end Sys2Proof.Machine
end

section
/-! The reference model and the harness (`46_reference_model.md` R217, R218): the reference's loops compute the big step's
value, and an `OUT` that holds it everywhere has no mismatch. -/

namespace Sys2Proof.Machine

/-- A loop of wrapped additions adds the exact sum and wraps once (`44_mac_accumulate_unit.md` R183). -/
theorem loopTo_wrap32 {n : Nat} {body : Nat → I32 → I32} {f : Nat → Int}
    (h : ∀ i a, body i a = wrap32 (a.toInt + f i)) (a : I32) : loopTo n body a = wrap32 (a.toInt + sumTo n f) := by
  induction n with
  | zero => rw [loopTo, sumTo, Int.add_zero, wrap32_toInt]
  | succ n ih => rw [loopTo, h, ih, wrap32_add_wrap32, Int.add_assoc, sumTo]

theorem State.refAcc_eq_partialAcc (s : State) (co oy ox : Nat) : s.refAcc co oy ox = s.partialAcc co oy ox s.cfg.cin :=
  loopTo_wrap32 (fun _ => loopTo_wrap32 fun _ => loopTo_wrap32 fun _ _ => rfl) _

theorem State.refOut_eq_bigStepOut (s : State) (co oy ox : Nat) : s.refOut co oy ox = s.bigStepOut co oy ox := by
  rw [State.refOut, State.refAcc_eq_partialAcc, State.bigStepOut]

/-- An offset inside `OUT` is that of the element whose coordinates it is divided into (`20_memory.md` R64). -/
theorem offset_coordinates (c : Config) {i : Nat} (h : i < c.outBytes) :
    i / c.cout / c.ow < c.oh ∧ i / c.cout % c.ow < c.ow ∧ i % c.cout < c.cout ∧
      c.outIdx (i / c.cout / c.ow) (i / c.cout % c.ow) (i % c.cout) = i := by
  refine ⟨Nat.div_lt_of_lt_mul (Nat.div_lt_of_lt_mul ?_), Nat.mod_lt _ c.ow_pos, Nat.mod_lt _ c.cout_pos, ?_⟩
  · rw [Nat.mul_comm, Nat.mul_comm c.ow]
    exact h
  · rw [Config.outIdx, Nat.div_add_mod', Nat.div_add_mod']

theorem State.mismatches_eq_nil {s : State} (h : ∀ oy, oy < s.cfg.oh → ∀ ox, ox < s.cfg.ow → ∀ co, co < s.cfg.cout →
    s.outputAt oy ox co = s.refOut co oy ox) : s.mismatches = [] := by
  refine List.filter_eq_nil_iff.mpr fun e he => ?_
  obtain ⟨i, hi, rfl⟩ := List.mem_map.mp he
  have hi := List.mem_range.mp hi
  obtain ⟨hoy, hox, hco, hidx⟩ := offset_coordinates s.cfg hi
  have hbyte := h _ hoy _ hox _ hco
  rw [State.outputAt, hidx] at hbyte
  simp [State.refBytes, tab_at hi, hbyte]

theorem State.harness_of_no_mismatch {s : State} (h : s.mismatches = []) (nReport : Nat) :
    s.harness nReport = (true, 0, []) := by
  simp [State.harness, h]

/-- The harness after a run (`46_reference_model.md` R218, R219). -/
theorem RunCompleted.mismatches {s t : State} (h : RunCompleted s t) : t.mismatches = [] := by
  refine State.mismatches_eq_nil fun oy hoy ox hox co hco => ?_
  rw [h.cfg] at hoy hox hco
  rw [h.output oy hoy ox hox co hco, State.refOut_eq_bigStepOut, h.bigStepOut]

end Sys2Proof.Machine
end

section
/-! One whole host call: buffers, references, `START`, the run, `WAIT_DONE` (`40_control_sequencer.md` R127,
`70_reset_and_hazards.md` R272). -/

namespace Sys2Proof.Machine

/-! ### Preparing a run -/

theorem hostMove_provide {s : State} (h : s.hostMayTouch = true) (sp : Space) (bytes : List I8) :
    hostMove (.provide sp bytes) s = .next (s.withSpace sp (Memory.ofBytes bytes)) := by
  rw [hostMove, h, checked_first_holds, checked_nil]

theorem hostMove_setRef {s : State} (h : s.hostMayTouch = true) (sp : Space) (n : Nat) :
    hostMove (.setRef sp n) s = .next (s.withRef sp ⟨n, true⟩) := by
  rw [hostMove, h, checked_first_holds, checked_nil]

/-- The state with other turns still to come. -/
def State.withAgenda (s : State) (turns : List Turn) : State := { s with agenda := turns }

theorem step_withAgenda {m : HostMove} (hm : m ≠ .waitDone) (s : State) (turns : List Turn) :
    step (s.withAgenda (.host m :: turns)) = hostMove m (s.withAgenda turns) := step_host rfl hm

/-- One kind of host move on a series of spaces: where each move is allowed, completes and does not look at the agenda, the
moves' effects follow one another. -/
theorem run_hostMoves {move : Space → HostMove} {effect : State → Space → State} (hwait : ∀ sp, move sp ≠ .waitDone)
    (hmove : ∀ s sp, s.hostMayTouch = true → hostMove (move sp) s = .next (effect s sp))
    (hmay : ∀ s sp, (effect s sp).hostMayTouch = s.hostMayTouch)
    (hagenda : ∀ s sp turns, effect (s.withAgenda turns) sp = (effect s sp).withAgenda turns)
    (spaces : List Space) {s : State} {rest : List Turn} (h : s.hostMayTouch = true) :
    core.run spaces.length (s.withAgenda ((spaces.map fun sp => .host (move sp)) ++ rest)) =
      .next ((spaces.foldl effect s).withAgenda rest) := by
  induction spaces generalizing s with
  | nil => rfl
  | cons sp spaces ih =>
    have hstep (turns : List Turn) :
        step (s.withAgenda (.host (move sp) :: turns)) = .next ((effect s sp).withAgenda turns) := by
      rw [step_withAgenda (hwait sp), hmove (s.withAgenda turns) sp h, hagenda]
    exact (run_step (hstep _) _).trans (ih ((hmay s sp).trans h))

/-- The host has provided buffers of these bytes, in this order. -/
def State.provided (s : State) (bytes : Space → List I8) (spaces : List Space) : State :=
  spaces.foldl (fun s sp => s.withSpace sp (.ofBytes (bytes sp))) s

/-- The host has written these references, in this order. -/
def State.referring (s : State) (handle : Space → Nat) (spaces : List Space) : State :=
  spaces.foldl (fun s sp => s.withRef sp ⟨handle sp, true⟩) s

/-- What each move of a series leaves alone, the series does. -/
theorem foldl_keeps {α : Type} {effect : State → Space → State} {f : State → α} (h : ∀ s sp, f (effect s sp) = f s)
    (spaces : List Space) (s : State) : f (spaces.foldl effect s) = f s := by
  induction spaces generalizing s with
  | nil => rfl
  | cons sp spaces ih => exact (ih _).trans (h s sp)

theorem State.provided_keeps {α : Type} {f : State → α} (h : ∀ s sp m, f (s.withSpace sp m) = f s) (s : State)
    (bytes : Space → List I8) (spaces : List Space) : f (s.provided bytes spaces) = f s :=
  foldl_keeps (fun s sp => h s sp (.ofBytes (bytes sp))) spaces s

theorem State.referring_keeps {α : Type} {f : State → α} (h : ∀ s sp r, f (s.withRef sp r) = f s) (s : State)
    (handle : Space → Nat) (spaces : List Space) : f (s.referring handle spaces) = f s :=
  foldl_keeps (fun s sp => h s sp ⟨handle sp, true⟩) spaces s

theorem State.withSpace_hostMayTouch (s : State) (sp : Space) (m : Memory) :
    (s.withSpace sp m).hostMayTouch = s.hostMayTouch := by
  simp only [State.hostMayTouch, State.busy, State.withSpace_pc, State.withSpace_duty]

theorem State.withRef_hostMayTouch (s : State) (sp : Space) (r : Ref) :
    (s.withRef sp r).hostMayTouch = s.hostMayTouch := by
  simp only [State.hostMayTouch, State.busy, State.withRef_pc, State.withRef_duty]

theorem State.withRef_space (s : State) (sp sp' : Space) (r : Ref) : (s.withRef sp r).space sp' = s.space sp' := by
  cases sp' <;>
    simp only [State.space, State.withRef_inMem, State.withRef_wgtMem, State.withRef_biasMem, State.withRef_outMem]

theorem State.withRef_ref_ne (s : State) {sp sp' : Space} (r : Ref) (h : sp' ≠ sp) :
    (s.withRef sp r).ref sp' = s.ref sp' := by
  cases sp <;> cases sp' <;> simp [State.withRef, State.ref] at h ⊢

theorem State.provided_space (s : State) (bytes : Space → List I8) (spaces : List Space) (sp : Space) :
    (s.provided bytes spaces).space sp = if sp ∈ spaces then .ofBytes (bytes sp) else s.space sp := by
  induction spaces generalizing s with
  | nil => rfl
  | cons sp' spaces ih =>
    refine (ih _).trans ?_
    by_cases hsp : sp = sp'
    · simp [hsp]
    · simp [hsp, State.withSpace_space_ne s _ hsp]

theorem State.referring_ref (s : State) (handle : Space → Nat) (spaces : List Space) (sp : Space) :
    (s.referring handle spaces).ref sp = if sp ∈ spaces then ⟨handle sp, true⟩ else s.ref sp := by
  induction spaces generalizing s with
  | nil => rfl
  | cons sp' spaces ih =>
    refine (ih _).trans ?_
    by_cases hsp : sp = sp'
    · simp [hsp]
    · simp [hsp, State.withRef_ref_ne s _ hsp]

theorem run_provides (bytes : Space → List I8) (spaces : List Space) (rest : List Turn) {s : State}
    (h : s.hostMayTouch = true) :
    core.run spaces.length (s.withAgenda ((spaces.map fun sp => .host (.provide sp (bytes sp))) ++ rest)) =
      .next ((s.provided bytes spaces).withAgenda rest) :=
  run_hostMoves (move := fun sp => .provide sp (bytes sp)) (fun _ => nofun) (fun _ sp h => hostMove_provide h sp _)
    (fun s sp => s.withSpace_hostMayTouch sp _) (fun s sp _ => by cases sp <;> rfl) spaces h

theorem run_setRefs (handle : Space → Nat) (spaces : List Space) (rest : List Turn) {s : State}
    (h : s.hostMayTouch = true) :
    core.run spaces.length (s.withAgenda ((spaces.map fun sp => .host (.setRef sp (handle sp))) ++ rest)) =
      .next ((s.referring handle spaces).withAgenda rest) :=
  run_hostMoves (move := fun sp => .setRef sp (handle sp)) (fun _ => nofun) (fun _ sp h => hostMove_setRef h sp _)
    (fun s sp => s.withRef_hostMayTouch sp _) (fun s sp _ => by cases sp <;> rfl) spaces h

/-- The four spaces, in the order in which a call prepares them (`70_reset_and_hazards.md` R272). -/
abbrev callSpaces : List Space := [.input, .weights, .biases, .output]

theorem mem_callSpaces (sp : Space) : sp ∈ callSpaces := by cases sp <;> decide

/-- The state in which the host has provided the four buffers and written the four references, and gives `START` next. -/
def State.prepared (s : State) (bytes : Space → List I8) (handle : Space → Nat) : State :=
  ((s.provided bytes callSpaces).referring handle callSpaces).withAgenda [.host .start, .host .waitDone]

/-- The eight moves before `START`. -/
theorem run_prepares {s : State} {bytes : Space → List I8} {handle : Space → Nat} (ha : s.agenda = callTurns bytes handle)
    (h : s.hostMayTouch = true) : core.run (callSpaces.length + callSpaces.length) s = .next (s.prepared bytes handle) := by
  have hs : s = s.withAgenda ((callSpaces.map fun sp => .host (.provide sp (bytes sp))) ++
      ((callSpaces.map fun sp => .host (.setRef sp (handle sp))) ++ [.host .start, .host .waitDone])) := by
    rw [← List.append_assoc, ← callTurns, ← ha]
    rfl
  have hmay := (s.provided_keeps State.withSpace_hostMayTouch bytes callSpaces).trans h
  exact ((congrArg _ hs).trans (run_add (run_provides bytes callSpaces _ h) _)).trans (run_setRefs handle callSpaces _ hmay)

theorem State.prepared_agenda (s : State) (bytes : Space → List I8) (handle : Space → Nat) :
    (s.prepared bytes handle).agenda = [.host .start, .host .waitDone] := rfl

theorem State.prepared_cfg (s : State) (bytes : Space → List I8) (handle : Space → Nat) :
    (s.prepared bytes handle).cfg = s.cfg :=
  (State.referring_keeps State.withRef_cfg _ handle callSpaces).trans (s.provided_keeps State.withSpace_cfg bytes callSpaces)

theorem State.prepared_pc (s : State) (bytes : Space → List I8) (handle : Space → Nat) :
    (s.prepared bytes handle).pc = s.pc :=
  (State.referring_keeps State.withRef_pc _ handle callSpaces).trans (s.provided_keeps State.withSpace_pc bytes callSpaces)

theorem State.prepared_space (s : State) (bytes : Space → List I8) (handle : Space → Nat) (sp : Space) :
    (s.prepared bytes handle).space sp = .ofBytes (bytes sp) :=
  calc (s.prepared bytes handle).space sp
      = (s.provided bytes callSpaces).space sp :=
        State.referring_keeps (f := (·.space sp)) (fun s sp' => s.withRef_space sp' sp) _ handle callSpaces
    _ = .ofBytes (bytes sp) := (s.provided_space bytes callSpaces sp).trans (if_pos (mem_callSpaces sp))

theorem State.prepared_refsWritten (s : State) (bytes : Space → List I8) (handle : Space → Nat) :
    (s.prepared bytes handle).refsWritten = true := by
  refine (State.refsWritten_iff _).mpr fun sp => ?_
  have href : (s.prepared bytes handle).ref sp = ⟨handle sp, true⟩ :=
    ((s.provided bytes callSpaces).referring_ref handle callSpaces sp).trans (if_pos (mem_callSpaces sp))
  rw [href]

/-- Buffers of the tensors' sizes fit (`20_memory.md` R60, R65). -/
theorem State.prepared_buffersFit {s : State} {bytes : Space → List I8} (handle : Space → Nat)
    (hin : (bytes .input).length = s.cfg.inBytes) (hwgt : (bytes .weights).length = s.cfg.wgtBytes)
    (hbias : (bytes .biases).length = s.cfg.biasBytes) (hout : (bytes .output).length = s.cfg.outBytes) :
    (s.prepared bytes handle).buffersFit = true := by
  have hsize (sp : Space) : ((s.prepared bytes handle).space sp).size = (bytes sp).length := by
    rw [State.prepared_space, Memory.ofBytes_size]
  rw [State.buffersFit_iff, State.prepared_cfg]
  exact ⟨((hsize .input).trans hin).ge, ((hsize .weights).trans hwgt).ge,
    ((hsize .biases).trans hbias).ge, ((hsize .output).trans hout).ge⟩

/-! ### `START`, the run and `WAIT_DONE` -/

theorem SameInputs.space {s t : State} (h : SameInputs s t) {sp : Space} (hsp : sp ≠ .output) : t.space sp = s.space sp := by
  cases sp with
  | input => exact h.inMem
  | weights => exact h.wgtMem
  | biases => exact h.biasMem
  | output => exact absurd rfl hsp

theorem step_start {s : State} {rest : List Turn} (ha : s.agenda = .host .start :: rest) (href : s.refsWritten = true)
    (hfit : s.buffersFit = true) (hp : s.pc.phase = .idle) : step s = .next ({ s with agenda := rest } : State).started :=
  (step_host ha nofun).trans (execStart_next_iff.mpr ⟨⟨href, hfit, hp⟩, rfl⟩)

theorem step_waitDone {s : State} {rest : List Turn} (ha : s.agenda = .host .waitDone :: rest)
    (hw : s.waitEnabled = true) : step s = .next { s with agenda := rest, duty := .free } := by
  have hwaits : hostWaits .waitDone s = false := by simp [hostWaits, hw]
  simp only [step, takeTurn, ha, hwaits, Bool.false_eq_true, if_false]
  exact execWaitDone_enabled (s := { s with agenda := rest }) hw

/-- From `START` on: the signal, the run, and the host's observation of `DONE`. -/
theorem run_call {s : State} (ha : s.agenda = [.host .start, .host .waitDone]) (href : s.refsWritten = true)
    (hfit : s.buffersFit = true) (hp : s.pc.phase = .idle) (hwf : s.outMem.wf) :
    ∃ t, core.run (runLength s.cfg + 3) s = .next { t with agenda := [], duty := .free } ∧ SameInputs s t ∧
      t.done = true ∧ t.pc.phase = .idle ∧ t.mismatches = [] := by
  have hstart := step_start ha href hfit hp
  obtain ⟨t, hrun, hdone⟩ :=
    run_completes (s := ({ s with agenda := [.host .waitDone] } : State).started)
      (.inr ⟨[], rfl, Bool.and_false _⟩) hp rfl hfit hwf
  have hwait := step_waitDone hdone.agenda (t.waitEnabled_iff.mpr ⟨hdone.done, hdone.start⟩)
  refine ⟨t, ?_, ⟨hdone.cfg, hdone.inMem, hdone.wgtMem, hdone.biasMem⟩, hdone.done, hdone.idle, hdone.mismatches⟩
  rw [run_step hstart]
  exact (run_add hrun 1).trans (run_step hwait 0)

/-- Settles O54: the eight preparing moves, then `START`, the run and `WAIT_DONE`. -/
theorem hostCallDelivers : Obligations.HostCallDelivers := by
  unfold Obligations.HostCallDelivers
  intro s bytes handle nReport ha hp hd hin hwgt hbias hout
  have hprepare := run_prepares ha (s.hostMayTouch_iff.mpr ⟨hp, hd⟩)
  have hagenda := s.prepared_agenda bytes handle
  have hcfg := s.prepared_cfg bytes handle
  have hpc := s.prepared_pc bytes handle
  have hspaces := s.prepared_space bytes handle
  have hrefs := s.prepared_refsWritten bytes handle
  have hfit := State.prepared_buffersFit handle hin hwgt hbias hout
  generalize s.prepared bytes handle = u at *
  have hwf : (u.space .output).wf := hspaces .output ▸ Memory.ofBytes_wf _
  obtain ⟨t, hrun, hsame, hdone, hidle, hmatch⟩ := run_call hagenda hrefs hfit (hpc ▸ hp) hwf
  refine ⟨{ t with agenda := [], duty := .free }, ?run, rfl, hdone, ?mayRead, fun sp hsp a v hv => ?input,
    State.harness_of_no_mismatch hmatch nReport⟩
  case run =>
    rw [hcfg] at hrun
    exact Nat.add_comm 8 (runLength s.cfg + 3) ▸ (run_add hprepare _).trans hrun
  case mayRead => simp [State.hostMayReadOut, State.busy, hidle]
  case input =>
    have hspace : t.space sp = .ofBytes (bytes sp) := (hsame.space hsp).trans (hspaces sp)
    exact (congrArg (·.read a) hspace).trans (Memory.ofBytes_read _ hv)

end Sys2Proof.Machine
end

section
/-! The weight tile loader: what `LOAD_WEIGHTS` loads, and its one breach of order (`41_weight_tile_loader.md` R150). -/

namespace Sys2Proof

/-- An output tile lies inside the channels; no truncated subtraction. -/
theorem Config.coOrigin_iff (c : Config) (o : Nat) : c.CoOrigin o ↔ o % c.coTile = 0 ∧ o + c.coTile ≤ c.cout :=
  and_congr_right fun _ => Nat.le_sub_iff_add_le c.coTile_le

/-- An input tile lies inside the channels; no truncated subtraction. -/
theorem Config.ciOrigin_iff (c : Config) (o : Nat) : c.CiOrigin o ↔ o % c.ciTile = 0 ∧ o + c.ciTile ≤ c.cin :=
  and_congr_right fun _ => Nat.le_sub_iff_add_le c.ciTile_le

end Sys2Proof

namespace Sys2Proof.Machine

/-- Settles O22: the premises are the preconditions of `LOAD_WEIGHTS`, and each element is the byte at R150's offset. -/
theorem loadWeightsLoadsTile : Obligations.LoadWeightsLoadsTile := by
  unfold Obligations.LoadWeightsLoadsTile
  rintro s _ _ hp rfl rfl hcoMul hcoLast hciMul hciLast hsize
  have hnext := execLoadWeights_next_iff.mpr ⟨⟨⟨hp, rfl, rfl, ⟨hcoMul, hcoLast⟩, hciMul, hciLast⟩, hsize⟩, rfl⟩
  exact ⟨_, hnext, fun _ hco _ hci _ hky _ hkx => s.weightsLoaded_wbufAt _ _ hco hci hky hkx, rfl, rfl, rfl, rfl, rfl, rfl⟩

theorem execLoadWeights_b1 {co0 ci0 : Nat} {s : State} (h : ¬ (s.pc.phase = .loadWeights ∧ co0 = s.pc.co0 ∧
    ci0 = s.pc.ci0 ∧ s.cfg.CoOrigin co0 ∧ s.cfg.CiOrigin ci0)) :
    execLoadWeights co0 ci0 s = .refused .b1TileOrigin := by
  rw [execLoadWeights, loadWeightsChecks, decide_eq_false h, checked_first_fails]

/-- Settles O28: each clause contradicts a part of the first precondition of `LOAD_WEIGHTS`. -/
theorem loadWeightsBreach : Obligations.LoadWeightsBreach := by
  unfold Obligations.LoadWeightsBreach
  refine fun s co0 ci0 h => execLoadWeights_b1 ?_
  rw [s.cfg.coOrigin_iff, s.cfg.ciOrigin_iff]
  rintro ⟨hphase, hco0, hci0, ⟨hcoMul, hcoLast⟩, hciMul, hciLast⟩
  rcases h with h | h | h | h | h | h | h
  · exact h hphase
  · exact h hco0
  · exact h hci0
  · exact h hcoMul
  · exact Nat.not_lt.mpr hcoLast h
  · exact h hciMul
  · exact Nat.not_lt.mpr hciLast h

end Sys2Proof.Machine
end

section
/-! The line buffer manager: what `PUSH_ROW` puts into the ring, and its one breach of order
(`42_line_buffer_manager.md` R160). -/

namespace Sys2Proof.Machine

/-- From row `K-1` on, each pushed row completes a window: `BUILD_WINDOW` at the first scan column is next (R160). -/
theorem State.rowPushed_pc_windowRow (s : State) {y : Nat} (ci0 : Nat) (hk : s.cfg.k - 1 ≤ y) :
    (s.rowPushed y ci0).pc = { s.pc with phase := .buildWindow, x := s.cfg.k - 1 } := by
  rw [State.rowPushed_pc, if_pos hk]

/-- Before row `K-1` the ring is still filling: the next row is pushed (R160). -/
theorem State.rowPushed_pc_fillingRow (s : State) {y : Nat} (ci0 : Nat) (hk : y < s.cfg.k - 1) :
    (s.rowPushed y ci0).pc = { s.pc with phase := .pushRow, y := y + 1, x := s.cfg.k - 1 } := by
  rw [State.rowPushed_pc, if_neg (Nat.not_le.mpr hk)]

/-- Settles O23: the premises are the preconditions of `PUSH_ROW`, and the effect replaces the slot `ROW_PTR` names only. -/
theorem pushRowFillsSlot : Obligations.PushRowFillsSlot := by
  unfold Obligations.PushRowFillsSlot
  rintro s _ _ hp rfl rfl hy hci hrows hsize hptr
  have hnext := execPushRow_next_iff.mpr ⟨⟨⟨hp, rfl, rfl, hrows, hy, hci⟩, hsize⟩, rfl⟩
  refine ⟨_, hnext, ?filled, ?kept, rfl, rfl, rfl, ?windowRow, ?fillingRow, rfl⟩
  case filled => exact fun _ hx _ hci' => s.rowPushed_lineAt_slot _ _ hptr hx hci'
  case kept => exact fun _ hr hne _ _ => s.rowPushed_lineAt_other _ _ _ _ hr hne
  case windowRow => exact s.rowPushed_pc_windowRow _
  case fillingRow => exact s.rowPushed_pc_fillingRow _

theorem execPushRow_b2 {y ci0 : Nat} {s : State} (h : ¬ (s.pc.phase = .pushRow ∧ y = s.pc.y ∧ ci0 = s.pc.ci0 ∧
    s.rowsPushed = some ⟨ci0, y⟩ ∧ y < s.cfg.h ∧ s.cfg.CiOrigin ci0)) :
    execPushRow y ci0 s = .refused .b2RowOrder := by
  rw [execPushRow, pushRowChecks, decide_eq_false h, checked_first_fails]

/-- Settles O29: each clause contradicts a part of the first precondition of `PUSH_ROW`. -/
theorem pushRowBreach : Obligations.PushRowBreach := by
  unfold Obligations.PushRowBreach
  refine fun s y ci0 h => execPushRow_b2 ?_
  rw [s.cfg.ciOrigin_iff]
  rintro ⟨hphase, hy, hci0, hrows, hlast, hciMul, hciLast⟩
  rcases h with h | h | h | h | h | h | h
  · exact h hphase
  · exact h hy
  · exact h hci0
  · exact Nat.not_lt.mpr h hlast
  · exact h hciMul
  · exact Nat.not_lt.mpr hciLast h
  · exact h hrows

end Sys2Proof.Machine
end

section
/-! The window assembler: what `BUILD_WINDOW` copies from the ring, and its two breaches (`43_window_assembler.md` R170). -/

namespace Sys2Proof

/-- The scan positions that have a pixel; no truncated subtraction. -/
theorem Config.isPixel_iff_le_succ (c : Config) (y x : Nat) :
    c.isPixel y x = true ↔ c.k ≤ y + 1 ∧ y < c.h ∧ c.k ≤ x + 1 ∧ x < c.w := by
  rw [Machine.isPixel_iff, Nat.sub_le_iff_le_add, Nat.sub_le_iff_le_add]

/-- The window ends at the scan column, so it reads no column past it (R170). -/
theorem Config.windowColumn_le (c : Config) {x kx : Nat} (hx : c.k - 1 ≤ x) (hkx : kx < c.k) : c.windowColumn x kx ≤ x := by
  unfold Config.windowColumn
  omega

end Sys2Proof

namespace Sys2Proof.Machine

theorem State.slot_lt (s : State) (ky : Nat) : s.slot ky < s.cfg.k := Nat.mod_lt _ s.cfg.k_pos

theorem State.windowSourceHeld_iff (s : State) (x : Nat) :
    s.windowSourceHeld x = true ↔ ∀ ky, ky < s.cfg.k → ∀ kx, kx < s.cfg.k → ∀ ci, ci < s.cfg.ciTile →
      (s.windowSource x ky kx ci).isSome = true := decide_eq_true_iff

/-- Where the ring holds values, so does every element the window reads: slot and column lie inside the ring. -/
theorem State.windowSourceHeld_of_ring {s : State} {x : Nat} (hkx : s.cfg.k - 1 ≤ x) (hxw : x < s.cfg.w)
    (hring : ∀ r, r < s.cfg.k → ∀ q, q < s.cfg.w → ∀ ci, ci < s.cfg.ciTile → (s.lineAt r q ci).isSome = true) :
    s.windowSourceHeld x = true :=
  (s.windowSourceHeld_iff x).mpr fun ky _ _ hkx' ci hci =>
    hring _ (s.slot_lt ky) _ ((s.cfg.windowColumn_le hkx hkx').trans_lt hxw) ci hci

/-- With the source held, the effect's stand-in for a missing value is never used (R170). -/
theorem State.windowBuilt_windowAt_eq_source {s : State} {x : Nat} (hheld : s.windowSourceHeld x = true) (y : Nat)
    {ky kx ci : Nat} (hky : ky < s.cfg.k) (hkx : kx < s.cfg.k) (hci : ci < s.cfg.ciTile) :
    (s.windowBuilt y x).windowAt ky kx ci = s.windowSource x ky kx ci := by
  have hsome := (s.windowSourceHeld_iff x).mp hheld ky hky kx hkx ci hci
  obtain ⟨v, hv⟩ := Option.isSome_iff_exists.mp hsome
  rw [State.windowBuilt_windowAt _ _ _ hky hkx hci, hv, Option.getD_some]

/-- Settles O24: the premises are the preconditions of `BUILD_WINDOW`, and each element is the ring element at R170's slot
and column. -/
theorem buildWindowCopiesRing : Obligations.BuildWindowCopiesRing := by
  unfold Obligations.BuildWindowCopiesRing
  rintro s _ _ hp rfl rfl hky hyh hkx hxw hrows hring
  have hpixel := (isPixel_iff ..).mpr ⟨hky, hyh, hkx, hxw⟩
  have hheld := State.windowSourceHeld_of_ring hkx hxw hring
  have hnext := execBuildWindow_next_iff.mpr ⟨⟨⟨hp, rfl, rfl⟩, hpixel, hrows, hheld⟩, rfl⟩
  exact ⟨_, hnext, fun _ hky' _ hkx' _ hci => State.windowBuilt_windowAt_eq_source hheld _ hky' hkx' hci, rfl, rfl, rfl⟩

theorem execBuildWindow_b3 {y x : Nat} {s : State} (h : ¬ ((s.pc.phase = .buildWindow ∧ y = s.pc.y ∧ x = s.pc.x) ∧
    s.cfg.isPixel y x = true ∧ s.rowsPushed = some ⟨s.pc.ci0, y + 1⟩)) :
    execBuildWindow y x s = .refused .b3NoWindow := by
  rw [execBuildWindow, buildWindowChecks, checked, if_neg]
  simpa only [Bool.and_eq_true, decide_eq_true_eq, and_assoc] using h

theorem execBuildWindow_b10 {y x : Nat} {s : State} (hop : s.pc.phase = .buildWindow ∧ y = s.pc.y ∧ x = s.pc.x)
    (hpixel : s.cfg.isPixel y x = true) (hrows : s.rowsPushed = some ⟨s.pc.ci0, y + 1⟩)
    (h : s.windowSourceHeld x = false) : execBuildWindow y x s = .refused .b10NoValue := by
  rw [execBuildWindow, buildWindowChecks, decide_eq_true hop, hpixel, decide_eq_true hrows, Bool.and_self, Bool.and_self,
    checked_first_holds, h, checked_first_fails]

/-- One ring element the window reads and that holds no value is enough for B10. -/
theorem State.windowSourceHeld_eq_false {s : State} {x ky kx ci : Nat} (hky : ky < s.cfg.k) (hkx : kx < s.cfg.k)
    (hci : ci < s.cfg.ciTile) (h : s.windowSource x ky kx ci = none) : s.windowSourceHeld x = false := by
  refine Bool.eq_false_iff.mpr fun hheld => ?_
  have hsome := (s.windowSourceHeld_iff x).mp hheld ky hky kx hkx ci hci
  exact Option.isSome_iff_ne_none.mp hsome h

/-- Settles O30: each clause of the first part contradicts a part of the first precondition of `BUILD_WINDOW`; in the second
part that precondition holds, and the second fails at the element without a value. -/
theorem buildWindowBreaches : Obligations.BuildWindowBreaches := by
  unfold Obligations.BuildWindowBreaches
  refine fun s y x => ⟨fun h => execBuildWindow_b3 ?noWindow, ?noValue⟩
  case noWindow =>
    rw [Config.isPixel_iff_le_succ]
    rintro ⟨⟨hphase, hy, hx⟩, ⟨hky, hyh, hkx, hxw⟩, hrows⟩
    rcases h with h | h | h | h | h | h | h | h
    · exact h hphase
    · exact h hy
    · exact h hx
    · exact Nat.not_lt.mpr hky h
    · exact Nat.not_lt.mpr h hyh
    · exact Nat.not_lt.mpr hkx h
    · exact Nat.not_lt.mpr h hxw
    · exact h hrows
  case noValue =>
    rintro hphase hy hx hky hyh hkx hxw hrows ⟨ky, kx, ci, hky', hkx', hci, hnone⟩
    exact execBuildWindow_b10 ⟨hphase, hy, hx⟩ ((Config.isPixel_iff_le_succ ..).mpr ⟨hky, hyh, hkx, hxw⟩) hrows
      (State.windowSourceHeld_eq_false hky' hkx' hci hnone)

end Sys2Proof.Machine
end

section
/-! The multiply-accumulate unit: the range of its products and sums, what `ACCUMULATE` adds, and its breach B4
(`44_mac_accumulate_unit.md` R180 to R182). -/

namespace Sys2Proof.Machine

/-! ### The arithmetic of the lanes (R181, R182) -/

/-- The least product needs one factor of each sign, and a positive factor is at most 127. -/
theorem product_lower (a b : I8) : -16256 ≤ product a b := by
  have ha := a.le_toInt
  have ha' := a.toInt_lt
  have hb := b.le_toInt
  have hb' := b.toInt_lt
  rcases le_total 0 a.toInt with hsign | hsign
  · calc (-16256 : Int) ≤ a.toInt * (-128) := by omega
      _ ≤ a.toInt * b.toInt := mul_le_mul_of_nonneg_left hb hsign
  · calc (-16256 : Int) ≤ a.toInt * 127 := by omega
      _ ≤ a.toInt * b.toInt := mul_le_mul_of_nonpos_left (Int.le_of_lt_add_one hb') hsign

theorem abs_toInt_le (a : I8) : |a.toInt| ≤ 128 := abs_le.mpr ⟨a.le_toInt, (a.toInt_lt).le⟩

theorem abs_product_le (a b : I8) : |product a b| ≤ 16384 :=
  calc |a.toInt * b.toInt| = |a.toInt| * |b.toInt| := abs_mul ..
    _ ≤ 128 * 128 := mul_le_mul (abs_toInt_le a) (abs_toInt_le b) (abs_nonneg _) (by decide)

theorem product_upper (a b : I8) : product a b ≤ 16384 := le_of_abs_le (abs_product_le a b)

/-- The 16-bit multiplier loses nothing: the exact product is in range (R181, D25). -/
theorem toInt_mul_signExtend (a b : I8) : (a.signExtend 16 * b.signExtend 16).toInt = product a b := by
  have hlower := product_lower a b
  have hupper := product_upper a b
  rw [BitVec.toInt_mul, BitVec.toInt_signExtend_of_le (by decide), BitVec.toInt_signExtend_of_le (by decide), ← product]
  exact Int.bmod_eq_of_le (by omega) (by omega)

/-- Settles O41: the bounds of the product give the exactness in 16 bits, and sign extension keeps the value. -/
theorem productsFitSixteenBits : Obligations.ProductsFitSixteenBits := by
  unfold Obligations.ProductsFitSixteenBits
  refine ⟨fun a b => ⟨rfl, product_lower a b, product_upper a b, toInt_mul_signExtend a b, ?wide⟩, by decide, by decide⟩
  case wide => rw [BitVec.toInt_signExtend_of_le (by decide), toInt_mul_signExtend]

theorem abs_sumTo_le {n : Nat} {f : Nat → Int} {b : Int} (h : ∀ i, |f i| ≤ b) : |sumTo n f| ≤ n * b := by
  rw [sumTo_eq_sum]
  calc |∑ i ∈ Finset.range n, f i| ≤ ∑ i ∈ Finset.range n, |f i| := Finset.abs_sum_le_sum_abs ..
    _ ≤ (Finset.range n).card • b := Finset.sum_le_card_nsmul _ _ _ fun i _ => h i
    _ = n * b := by rw [Finset.card_range, nsmul_eq_mul]

theorem wrap32_toInt_of_abs_le {z : Int} (h : |z| ≤ 2 ^ 31 - 1) : (wrap32 z).toInt = z := by
  obtain ⟨hlower, hupper⟩ := abs_le.mp h
  exact BitVec.toInt_ofInt_eq_self (by decide) (by omega) (by omega)

/-- Settles O43: each of the `CIN*K*K` products has magnitude at most 16384, so the bound keeps the sum in 32 bits. -/
theorem noWrapUnderBound : Obligations.NoWrapUnderBound := by
  unfold Obligations.NoWrapUnderBound
  intro s co oy ox hbound
  have hsum : |sumTo s.cfg.cin fun ci => sumTo s.cfg.k fun ky => sumTo s.cfg.k fun kx =>
      product (s.inputAt (oy + ky) (ox + kx) ci) (s.weightAt co ci ky kx)| ≤ s.cfg.cin * (s.cfg.k * (s.cfg.k * 16384)) :=
    abs_sumTo_le fun _ => abs_sumTo_le fun _ => abs_sumTo_le fun _ => abs_product_le ..
  simp only [← mul_assoc] at hsum
  rw [State.partialAcc, wrap32_toInt_of_abs_le ((abs_add_le ..).trans ((Int.add_le_add_left hsum _).trans hbound))]
  simp only [sumTo_eq_sum, product]

/-! ### The operands of `ACCUMULATE` (R180) -/

/-- The operands are current by their tags; the base is the bias on the first tile and the pixel's bank on a later one. -/
theorem State.operandsCurrent_iff (s : State) (y x : Nat) :
    s.operandsCurrent y x = true ↔ s.windowTag = some ⟨s.pc.ci0, y, x⟩ ∧ s.wbufTag = some ⟨s.pc.co0, s.pc.ci0⟩ ∧
      (s.pc.ci0 = 0 → s.biasValid = true) ∧
      (s.pc.ci0 ≠ 0 → s.accTagAt (s.cfg.outCoord y) (s.cfg.outCoord x) = some ⟨s.pc.co0, s.pc.ci0⟩) := by
  rw [State.operandsCurrent, Bool.and_eq_true, Bool.and_eq_true, decide_eq_true_eq, decide_eq_true_eq, and_assoc]
  by_cases hci : s.pc.ci0 = 0
  · simp [s.firstTile_iff.mpr hci, hci]
  · simp [mt s.firstTile_iff.mp hci, hci]

theorem State.laneBase_eq_some {s : State} {oy ox co : Nat} {v : I32}
    (hfirst : s.pc.ci0 = 0 → s.biasAt (s.pc.co0 + co) = some v) (hlater : s.pc.ci0 ≠ 0 → s.accAt oy ox co = some v) :
    s.laneBase oy ox co = some v := by
  unfold State.laneBase
  split
  case isTrue hf => exact hfirst (s.firstTile_iff.mp hf)
  case isFalse hf => exact hlater (mt s.firstTile_iff.mpr hf)

/-- The elements `ACCUMULATE` reads for pixel `(oy, ox)` hold the given values. -/
structure State.OperandsHold (s : State) (oy ox : Nat) (base : Nat → I32) (win : Nat → Nat → Nat → I8)
    (wgt : Nat → Nat → Nat → Nat → I8) : Prop where
  base : ∀ co, co < s.cfg.coTile → s.laneBase oy ox co = some (base co)
  window : ∀ ky, ky < s.cfg.k → ∀ kx, kx < s.cfg.k → ∀ ci, ci < s.cfg.ciTile → s.windowAt ky kx ci = some (win ky kx ci)
  weights : ∀ co, co < s.cfg.coTile → ∀ ci, ci < s.cfg.ciTile → ∀ ky, ky < s.cfg.k → ∀ kx, kx < s.cfg.k →
    s.wbufAt co ci ky kx = some (wgt co ci ky kx)

section
variable {s : State} {oy ox : Nat} {base : Nat → I32} {win : Nat → Nat → Nat → I8} {wgt : Nat → Nat → Nat → Nat → I8}

theorem State.OperandsHold.lanesHeld (h : s.OperandsHold oy ox base win wgt) : s.lanesHeld oy ox = true := by
  refine decide_eq_true fun co hco => ⟨by rw [h.base co hco]; rfl, fun ky hky kx hkx ci hci => ?_⟩
  rw [h.window ky hky kx hkx ci hci, h.weights co hco ci hci ky hky kx hkx]
  exact ⟨rfl, rfl⟩

theorem State.OperandsHold.laneSum (h : s.OperandsHold oy ox base win wgt) {co : Nat} (hco : co < s.cfg.coTile) :
    s.laneSum co = ∑ ky ∈ Finset.range s.cfg.k, ∑ kx ∈ Finset.range s.cfg.k, ∑ ci ∈ Finset.range s.cfg.ciTile,
      (win ky kx ci).toInt * (wgt co ci ky kx).toInt := by
  have htap {ky kx ci : Nat} (hky : ky < s.cfg.k) (hkx : kx < s.cfg.k) (hci : ci < s.cfg.ciTile) :
      s.tap co ky kx ci = product (win ky kx ci) (wgt co ci ky kx) := by
    rw [State.tap, h.window ky hky kx hkx ci hci, h.weights co hco ci hci ky hky kx hkx, Option.getD_some, Option.getD_some]
  calc s.laneSum co
      = sumTo s.cfg.k fun ky => sumTo s.cfg.k fun kx => sumTo s.cfg.ciTile fun ci => product (win ky kx ci) (wgt co ci ky kx) :=
        sumTo_congr fun ky hky => sumTo_congr fun kx hkx => sumTo_congr fun ci hci => htap hky hkx hci
    _ = _ := by simp only [sumTo_eq_sum, product]

theorem State.OperandsHold.laneResult (h : s.OperandsHold oy ox base win wgt) {co : Nat} (hco : co < s.cfg.coTile) :
    s.laneResult oy ox co = BitVec.ofInt 32 ((base co).toInt + ∑ ky ∈ Finset.range s.cfg.k, ∑ kx ∈ Finset.range s.cfg.k,
      ∑ ci ∈ Finset.range s.cfg.ciTile, (win ky kx ci).toInt * (wgt co ci ky kx).toInt) := by
  rw [State.laneResult, h.base co hco, Option.getD_some, h.laneSum hco, wrap32]

end

/-! ### The effect and the breach -/

/-- On the last input tile the pixel's sums are final, and `REQUANTIZE_WRITE` is next (R180). -/
theorem State.accumulated_pc_lastTile {s : State} (y x : Nat) (h : s.pc.ci0 = s.cfg.cin - s.cfg.ciTile) :
    (s.accumulated y x).pc = { s.pc with phase := .requantizeWrite } := by
  rw [State.accumulated_pc, if_pos (s.lastTile_iff.mpr h)]

theorem State.accumulated_pc_earlierTile {s : State} (y x : Nat) (h : s.pc.ci0 ≠ s.cfg.cin - s.cfg.ciTile) :
    (s.accumulated y x).pc = s.pc.advance s.cfg := by
  rw [State.accumulated_pc, if_neg (mt s.lastTile_iff.mp h)]

/-- Settles O25: the premises are the preconditions of `ACCUMULATE`, each lane's result is the wrapped sum of the values its
operands hold, and the effect replaces the pixel's bank and tag only. -/
theorem accumulateAddsTaps : Obligations.AccumulateAddsTaps := by
  unfold Obligations.AccumulateAddsTaps
  rintro s _ _ base win wgt hp rfl rfl hky hyh hkx hxw hwinTag hwgtTag hfirst hlater hwin hwgt
  have hold : s.OperandsHold (s.cfg.outCoord s.pc.y) (s.cfg.outCoord s.pc.x) base win wgt :=
    ⟨fun co hco => State.laneBase_eq_some (fun h => (hfirst h).2 co hco) (fun h => (hlater h).2 co hco), hwin, hwgt⟩
  have hcurrent : s.operandsCurrent s.pc.y s.pc.x = true :=
    (s.operandsCurrent_iff ..).mpr ⟨hwinTag, hwgtTag, fun h => (hfirst h).1, fun h => (hlater h).1⟩
  have hnext := execAccumulate_next_iff.mpr
    ⟨⟨⟨hp, rfl, rfl⟩, (isPixel_iff ..).mpr ⟨hky, hyh, hkx, hxw⟩, hcurrent, hold.lanesHeld⟩, rfl⟩
  have hoy := s.cfg.outCoord_lt_oh hyh
  have hox := s.cfg.outCoord_lt_ow hxw
  refine ⟨_, hnext, ?lanes, s.accumulated_accTagAt_same _ _ hoy hox, ?others, State.accumulated_pc_lastTile _ _,
    State.accumulated_pc_earlierTile _ _, rfl⟩
  case lanes => exact fun co hco => (s.accumulated_accAt_same _ _ hoy hox hco).trans (congrArg some (hold.laneResult hco))
  case others =>
    intro r hr q hq hne
    have hother := not_and_or.mpr hne
    exact ⟨s.accumulated_accTagAt_other _ _ hr hq hother, fun co => s.accumulated_accAt_other _ _ co hr hq hother⟩

theorem execAccumulate_b4 {y x : Nat} {s : State} (h : ¬ ((s.pc.phase = .accumulate ∧ y = s.pc.y ∧ x = s.pc.x) ∧
    s.cfg.isPixel y x = true ∧ s.operandsCurrent y x = true)) :
    execAccumulate y x s = .refused .b4StaleOperand := by
  rw [execAccumulate, accumulateChecks, checked, if_neg]
  simpa only [Bool.and_eq_true, decide_eq_true_eq, and_assoc] using h

/-- Settles O31: each clause contradicts a part of the first precondition of `ACCUMULATE`. -/
theorem accumulateBreach : Obligations.AccumulateBreach := by
  unfold Obligations.AccumulateBreach
  refine fun s y x h => execAccumulate_b4 ?_
  rw [Config.isPixel_iff_le_succ, State.operandsCurrent_iff]
  rintro ⟨⟨hphase, hy, hx⟩, ⟨hky, hyh, hkx, hxw⟩, hwinTag, hwgtTag, hbias, hbank⟩
  rcases h with h | h | h | h | h | h | h | h | h | ⟨hci, h⟩ | ⟨hci, h⟩
  · exact h hphase
  · exact h hy
  · exact h hx
  · exact Nat.not_lt.mpr hky h
  · exact Nat.not_lt.mpr h hyh
  · exact Nat.not_lt.mpr hkx h
  · exact Nat.not_lt.mpr h hxw
  · exact h hwinTag
  · exact h hwgtTag
  · exact Bool.eq_false_iff.mp h (hbias hci)
  · exact h (hbank hci)

end Sys2Proof.Machine
end

section
/-! The output requantizer: the shift as the floor by 256 and its saturation, what `REQUANTIZE_WRITE` stores, and its breach
B5 (`45_output_requantizer.md` R200 to R204). -/

namespace Sys2Proof.Machine

/-! ### The shift (R200, R204) -/

theorem sar8_eq_iff {a : I32} {q : Int} : sar8 a = q ↔ 256 * q ≤ a.toInt ∧ a.toInt < 256 * q + 256 := by
  rw [sar8, Int.ediv_eq_iff_of_pos (by decide), mul_comm]

theorem sar8_floor (a : I32) : 256 * sar8 a ≤ a.toInt ∧ a.toInt < 256 * sar8 a + 256 := sar8_eq_iff.mp rfl

theorem sar8_range (a : I32) : -8388608 ≤ sar8 a ∧ sar8 a ≤ 8388607 := by
  have hfloor := sar8_floor a
  have hlower := a.le_toInt
  have hupper := a.toInt_lt
  omega

theorem sar8_mono {a b : I32} (h : a.toInt ≤ b.toInt) : sar8 a ≤ sar8 b := Int.ediv_le_ediv (by decide) h

/-- A block `[256*q, 256*q+255]` has one quotient (R203). -/
theorem sar8_eq_of_block {a : I32} {q : Int} (hlower : 256 * q ≤ a.toInt) (hupper : a.toInt ≤ 256 * q + 255) :
    sar8 a = q := sar8_eq_iff.mpr ⟨hlower, by omega⟩

theorem sar8_eq_sshiftRight (a : I32) : sar8 a = (a.sshiftRight 8).toInt := by
  rw [BitVec.toInt_sshiftRight, Int.shiftRight_eq_div_pow]
  rfl

/-- Dropping the low eight bits commutes with the sign: bit 31 is the sign of the whole string and of the 24-bit one. -/
theorem sar8_eq_extractLsb' (a : I32) : sar8 a = (a.extractLsb' 8 24).toInt := by
  rw [sar8, BitVec.toInt_eq_toNat_cond, BitVec.toInt_eq_toNat_cond, BitVec.extractLsb'_toNat, Nat.shiftRight_eq_div_pow]
  have hlt := a.isLt
  omega

/-- Settles O47: the three readings of the shift, and its value at -1. -/
theorem shiftIsArithmetic : Obligations.ShiftIsArithmetic := by
  unfold Obligations.ShiftIsArithmetic
  refine ⟨fun a => ?readings, by decide, by decide⟩
  case readings => exact ⟨(sar8_floor a).1, (sar8_floor a).2, sar8_eq_extractLsb' a, sar8_eq_sshiftRight a⟩

/-! ### The saturation (R200, R202, R203) -/

theorem requant_toInt_eq_clamp (a : I32) : (requant a).toInt = max (-128) (min 127 (sar8 a)) := requant_toInt a

theorem requant_toInt_of_gt {a : I32} (h : 127 < sar8 a) : (requant a).toInt = 127 := by
  rw [requant_toInt_eq_clamp, min_eq_left h.le]
  rfl

theorem requant_toInt_of_lt {a : I32} (h : sar8 a < -128) : (requant a).toInt = -128 := by
  rw [requant_toInt_eq_clamp, max_eq_left ((min_le_right ..).trans h.le)]

theorem requant_toInt_of_mem {a : I32} (hlower : -128 ≤ sar8 a) (hupper : sar8 a ≤ 127) : (requant a).toInt = sar8 a := by
  rw [requant_toInt_eq_clamp, min_eq_right hupper, max_eq_right hlower]

theorem requant_mono {a b : I32} (h : a.toInt ≤ b.toInt) : (requant a).toInt ≤ (requant b).toInt := by
  rw [requant_toInt_eq_clamp, requant_toInt_eq_clamp]
  exact max_le_max_left _ (min_le_min_left _ (sar8_mono h))

/-- The low eight bits of the accumulator do not matter. -/
theorem requant_eq_of_sar8_eq {a b : I32} (h : sar8 a = sar8 b) : requant a = requant b := by rw [requant, requant, h]

/-- Settles O44: the quotient is the shift itself. -/
theorem requantSaturatesFloor : Obligations.RequantSaturatesFloor := by
  unfold Obligations.RequantSaturatesFloor
  exact fun a => ⟨sar8 a, sar8_floor a, sar8_range a, rfl, requant_toInt_of_gt, requant_toInt_of_lt, requant_toInt_of_mem⟩

/-- Settles O45: the thresholds are the ends of the blocks of 127 and -128. -/
theorem requantThresholds : Obligations.RequantThresholds := by
  unfold Obligations.RequantThresholds
  refine ⟨fun a => ⟨fun h => ?above, fun h => ?below, fun q hmin hmax hlower hupper => ?block⟩, by decide, by decide⟩
  case above =>
    have hshift : 128 ≤ sar8 a := by have := sar8_floor a; omega
    exact ⟨hshift, requant_toInt_of_gt hshift⟩
  case below =>
    have hshift : sar8 a ≤ -129 := by have := sar8_floor a; omega
    exact ⟨hshift, requant_toInt_of_lt (Int.lt_of_le_sub_one hshift)⟩
  case block =>
    obtain rfl := sar8_eq_of_block hlower hupper
    exact ⟨rfl, requant_toInt_of_mem hmin hmax⟩

/-- Settles O46: floor and clamp are both non-decreasing, and a block has one floor. -/
theorem requantMonotone : Obligations.RequantMonotone := by
  unfold Obligations.RequantMonotone
  refine ⟨requant_toInt_eq_clamp, fun _ _ => requant_mono, ?block⟩
  case block =>
    rintro a b ⟨q, halower, haupper, hblower, hbupper⟩
    exact requant_eq_of_sar8_eq ((sar8_eq_of_block halower haupper).trans (sar8_eq_of_block hblower hbupper).symm)

/-! ### The effect and the breach (R201) -/

theorem State.bankHeld_of_values {s : State} {oy ox : Nat} {acc : Nat → I32}
    (h : ∀ co, co < s.cfg.coTile → s.accAt oy ox co = some (acc co)) : s.bankHeld oy ox = true :=
  decide_eq_true fun co hco => by rw [h co hco]; rfl

/-- Every byte of `OUT` at no lane's offset is as before, whether or not it is an output element. -/
theorem State.requantized_read_other {s : State} (y x : Nat) {a : Nat} (h : ∀ co, co < s.cfg.coTile →
    a ≠ s.cfg.outIdx (s.cfg.outCoord y) (s.cfg.outCoord x) (s.pc.co0 + co)) :
    (s.requantized y x).outMem.read a = s.outMem.read a := by
  refine Memory.writeAll_read_other _ _ _ fun e he => ?_
  obtain ⟨co, hco, rfl⟩ := List.mem_map.mp he
  exact h co (List.mem_range.mp hco)

/-- Settles O26: the premises are the preconditions of `REQUANTIZE_WRITE`, and its effect writes the lanes' bytes only. -/
theorem requantizeWritesLanes : Obligations.RequantizeWritesLanes := by
  unfold Obligations.RequantizeWritesLanes
  rintro s _ _ acc hp rfl rfl hky hyh hkx hxw hlast htag hacc hsize hwf
  have hpixel := (isPixel_iff ..).mpr ⟨hky, hyh, hkx, hxw⟩
  have hnext := execRequantizeWrite_next_iff.mpr
    ⟨⟨⟨hp, rfl, rfl⟩, hpixel, hlast, htag, hsize, State.bankHeld_of_values hacc⟩, rfl⟩
  refine ⟨_, hnext, fun co hco => ?lane, fun a => State.requantized_read_other _ _, Memory.writeAll_size .., rfl, rfl⟩
  case lane =>
    have hbyte := State.requantized_outputAt_lane hwf s.pc.y s.pc.x hco
    rw [Config.outCoord, Config.outCoord, hacc co hco, Option.getD_some] at hbyte
    exact (congrArg BitVec.toInt hbyte).trans (requant_toInt _)

theorem execRequantizeWrite_b5 {y x : Nat} {s : State} (h : ¬ ((s.pc.phase = .requantizeWrite ∧ y = s.pc.y ∧ x = s.pc.x) ∧
    s.cfg.isPixel y x = true ∧ s.pc.ci0 = s.cfg.cin - s.cfg.ciTile ∧
    s.accTagAt (s.cfg.outCoord y) (s.cfg.outCoord x) = some ⟨s.pc.co0, s.cfg.cin⟩)) :
    execRequantizeWrite y x s = .refused .b5NotFinal := by
  rw [execRequantizeWrite, requantizeWriteChecks, checked, if_neg]
  simpa only [Bool.and_eq_true, decide_eq_true_eq, and_assoc, State.lastTile_iff] using h

/-- Settles O32: each clause contradicts a part of the first precondition of `REQUANTIZE_WRITE`. -/
theorem requantizeWriteBreach : Obligations.RequantizeWriteBreach := by
  unfold Obligations.RequantizeWriteBreach
  refine fun s y x h => execRequantizeWrite_b5 ?_
  rw [Config.isPixel_iff_le_succ]
  rintro ⟨⟨hphase, hy, hx⟩, ⟨hky, hyh, hkx, hxw⟩, hlast, htag⟩
  rcases h with h | h | h | h | h | h | h | h | h
  · exact h hphase
  · exact h hy
  · exact h hx
  · exact Nat.not_lt.mpr hky h
  · exact Nat.not_lt.mpr h hyh
  · exact Nat.not_lt.mpr hkx h
  · exact Nat.not_lt.mpr h hxw
  · exact h hlast
  · exact h htag

end Sys2Proof.Machine
end

section
/-! The engine against the reference model (`46_reference_model.md` R217 to R223): the run's output is the reference's, the
harness sees no mismatch, and neither the tile sizes nor the order of additions can be seen in it. -/

namespace Sys2Proof.Machine

/-! ### A run against the reference (R217 to R219) -/

/-- Settles O49: each of the three loops adds the exact sum and wraps once. -/
theorem referenceIsBigStep : Obligations.ReferenceIsBigStep := by
  unfold Obligations.ReferenceIsBigStep
  exact fun s co oy ox => ⟨s.refAcc_eq_partialAcc co oy ox, s.refOut_eq_bigStepOut co oy ox⟩

/-- Settles O52: the completed run leaves the big step's value in every element, and that is the reference's. -/
theorem runEqualsReference : Obligations.RunEqualsReference := by
  unfold Obligations.RunEqualsReference
  intro s ha hp hs hfit hwf
  obtain ⟨t, hrun, hdone⟩ := run_completes (.inl ha) hp hs hfit hwf
  exact ⟨t, hrun, hdone.idle, hdone.done, fun _ => hdone.space, fun oy hoy ox hox co hco =>
    (hdone.output oy hoy ox hox co hco).trans (s.refOut_eq_bigStepOut co oy ox).symm⟩

/-- Settles O53: the completed run has no mismatch, so the harness has nothing to count or print. -/
theorem runPassesHarness : Obligations.RunPassesHarness := by
  unfold Obligations.RunPassesHarness
  intro s nReport ha hp hs hfit hwf
  obtain ⟨t, hrun, hdone⟩ := run_completes (.inl ha) hp hs hfit hwf
  exact ⟨t, hrun, State.harness_of_no_mismatch hdone.mismatches nReport⟩

/-! ### Tile sizes (R222) -/

/-- The two states hold the same tensors, of the same sizes; their tile sizes may differ. -/
structure SameTensors (s t : State) : Prop where
  h : t.cfg.h = s.cfg.h
  w : t.cfg.w = s.cfg.w
  cin : t.cfg.cin = s.cfg.cin
  cout : t.cfg.cout = s.cfg.cout
  k : t.cfg.k = s.cfg.k
  inMem : t.inMem = s.inMem
  wgtMem : t.wgtMem = s.wgtMem
  biasMem : t.biasMem = s.biasMem

theorem sameTensors_of_tiles {s t : State} (hin : s.inMem = t.inMem) (hwgt : s.wgtMem = t.wgtMem)
    (hbias : s.biasMem = t.biasMem)
    (hdims : { s.cfg.toDims with ciTile := t.cfg.ciTile, coTile := t.cfg.coTile } = t.cfg.toDims) : SameTensors s t :=
  ⟨(congrArg Dims.h hdims).symm, (congrArg Dims.w hdims).symm, (congrArg Dims.cin hdims).symm,
    (congrArg Dims.cout hdims).symm, (congrArg Dims.k hdims).symm, hin.symm, hwgt.symm, hbias.symm⟩

theorem SameTensors.oh {s t : State} (hsame : SameTensors s t) : t.cfg.oh = s.cfg.oh := by
  rw [Config.oh, hsame.h, hsame.k, Config.oh]

theorem SameTensors.ow {s t : State} (hsame : SameTensors s t) : t.cfg.ow = s.cfg.ow := by
  rw [Config.ow, hsame.w, hsame.k, Config.ow]

/-- No formula of the big step mentions a tile size (`40_control_sequencer.md` R125). -/
theorem SameTensors.bigStepOut {s t : State} (hsame : SameTensors s t) (co oy ox : Nat) :
    t.bigStepOut co oy ox = s.bigStepOut co oy ox := by
  simp only [State.bigStepOut, State.partialAcc, State.biasWord, State.inputAt, State.weightAt, Config.inIdx,
    Config.wgtIdx, hsame.w, hsame.cin, hsame.k, hsame.inMem, hsame.wgtMem, hsame.biasMem]

theorem RunCompleted.outputAt_of_sameTensors {s s' t t' : State} (h : RunCompleted s t) (h' : RunCompleted s' t')
    (hsame : SameTensors s s') {oy ox co : Nat} (hoy : oy < s.cfg.oh) (hox : ox < s.cfg.ow) (hco : co < s.cfg.cout) :
    t.outputAt oy ox co = t'.outputAt oy ox co :=
  calc t.outputAt oy ox co
      = s.bigStepOut co oy ox := h.output oy hoy ox hox co hco
    _ = s'.bigStepOut co oy ox := (hsame.bigStepOut co oy ox).symm
    _ = t'.outputAt oy ox co :=
      (h'.output oy (hsame.oh ▸ hoy) ox (hsame.ow ▸ hox) co (hsame.cout ▸ hco)).symm

/-- Settles O55: both runs complete, and the big step's value does not depend on the tile sizes. -/
theorem outputIndependentOfTiles : Obligations.OutputIndependentOfTiles := by
  unfold Obligations.OutputIndependentOfTiles
  intro s s' ha ha' hp hp' hs hs' hfit hfit' hwf hwf' hin hwgt hbias hdims
  obtain ⟨t, hrun, hdone⟩ := run_completes (.inl ha) hp hs hfit hwf
  obtain ⟨t', hrun', hdone'⟩ := run_completes (.inl ha') hp' hs' hfit' hwf'
  have hsame := sameTensors_of_tiles hin hwgt hbias hdims
  exact ⟨t, t', hrun, hrun', fun oy hoy ox hox co hco => hdone.outputAt_of_sameTensors hdone' hsame hoy hox hco⟩

/-! ### The order of additions (R223) -/

/-- Adding to a register that wraps each sum adds the exact sum and wraps once (`44_mac_accumulate_unit.md` R183). -/
theorem foldl_wrap32 (l : List Int) (base : I32) :
    l.foldl (fun (acc : I32) z => wrap32 (acc.toInt + z)) base = wrap32 (base.toInt + l.sum) := by
  induction l generalizing base with
  | nil => rw [List.foldl_nil, List.sum_nil, Int.add_zero, wrap32_toInt]
  | cons z l ih => rw [List.foldl_cons, ih, wrap32_add_wrap32, Int.add_assoc, List.sum_cons]

/-- Settles O42: the exact sum of a list is that of any permutation of it. -/
theorem accumulationOrderFree : Obligations.AccumulationOrderFree := by
  unfold Obligations.AccumulationOrderFree
  intro base l l' hperm
  rw [foldl_wrap32, hperm.sum_eq]

end Sys2Proof.Machine
end

section
/-! No operation raises anything (`60_exceptions.md` R240). -/

namespace Sys2Proof.Machine

/-- Settles O33: every operation is a contract over a next state, so it answers that state or a refusal. -/
theorem operationsNeverFault : Obligations.OperationsNeverFault := by
  unfold Obligations.OperationsNeverFault
  intro i s f
  rw [exec_eq_checked]
  exact checked_next_ne_fault (checksOf i s) (effectOf i s) f

end Sys2Proof.Machine
end

section
/-! The host prepares a run: it provides the buffers and writes the references (`70_reset_and_hazards.md` R272). -/

namespace Sys2Proof.Machine

theorem State.withRef_eq (s : State) (sp : Space) (r : Ref) :
    s.withRef sp r =
      { s with
        inRef := (s.withRef sp r).inRef
        outRef := (s.withRef sp r).outRef
        wgtRef := (s.withRef sp r).wgtRef
        biasRef := (s.withRef sp r).biasRef } := by cases sp <;> rfl

/-- Settles O19: each move replaces one reference, or one space by the memory of the given bytes. -/
theorem hostPreparesRun : Obligations.HostPreparesRun := by
  unfold Obligations.HostPreparesRun
  intro s sp rest hp hd
  have hmay : ({ s with agenda := rest } : State).hostMayTouch = true := (State.hostMayTouch_iff _).mpr ⟨hp, hd⟩
  refine ⟨fun n h => ?_, fun bytes h => ?_⟩
  · exact ⟨_, (step_host h nofun).trans (hostMove_setRef hmay sp n), State.withRef_ref _ _ _,
      fun _ hsp => State.withRef_ref_ne _ _ hsp, State.withRef_eq _ _ _⟩
  · have hspace := State.withSpace_space { s with agenda := rest } sp (.ofBytes bytes)
    refine ⟨_, (step_host h nofun).trans (hostMove_provide hmay sp bytes), ?_, fun a v hv => ?_,
      fun _ hsp => State.withSpace_space_ne _ _ hsp, State.withSpace_eq _ _ _⟩
    · rw [hspace, Memory.ofBytes_size]
    · rw [hspace, Memory.ofBytes_read bytes hv]

end Sys2Proof.Machine
end
